-- ==== Sys2Proof/Word.lean ====
section
/-! DEFINITION. The widths of the machine: a byte, a 16-bit word, a 12-bit address field, a register number
(00_scope R8, R10, R14). -/

namespace Sys2Proof

/-- An unsigned 8-bit value: a general register, a timer, a memory byte, the field `kk` (R10, R14). -/
abbrev Byte := BitVec 8

/-- An unsigned 16-bit value: an instruction, `pc`, `I`, a stack entry (R10). -/
abbrev Word := BitVec 16

/-- The 12-bit absolute address field `nnn` (R14). -/
abbrev Addr12 := BitVec 12

/-- The number of a general register, or any other count or index held in one nibble, 0 to 15 (R14, R23). -/
abbrev Reg := Fin 16

end Sys2Proof
end

