-- ==== Sys2Proof/Config.lean ====
section
/-! DEFINITION. What one implementation fixes: the spec's open parameters FONT, BNNN_MODE and FONT_DIGIT_MODE
(00_scope R9), and the free value of the random port (43_random R171). The default values are in
Machine/Defaults.lean. -/

namespace Sys2Proof

/-- BNNN_MODE (R9, 40_control_flow R108): whether the optional row Bnnn is an instruction. -/
inductive BnnnMode where
  /-- Bnnn is no instruction: it raises InvalidInstruction (the default). -/
  | invalid
  /-- Bnnn jumps to nnn + V0. -/
  | jumpV0
  deriving DecidableEq, Repr

/-- FONT_DIGIT_MODE (R9, 42_addressing R152): which digit Fx29 takes from a register above 0xF. -/
inductive FontDigitMode where
  /-- The whole register (the default). -/
  | unmasked
  /-- Its low four bits. -/
  | lowNibble
  deriving DecidableEq, Repr

/-- The open parameters of R9 that are plain data, fixed for one machine.
A State carries them, and no step and no host call changes them (assumption log 2). -/
structure Params where
  /-- FONT: the 80 bytes of the 16 glyphs (10_state R34). -/
  font : Vector Byte 80
  /-- BNNN_MODE. -/
  bnnnMode : BnnnMode
  /-- FONT_DIGIT_MODE. -/
  fontDigitMode : FontDigitMode
  deriving DecidableEq, Repr

/-- FREE VALUE: the byte the random port gives at draw number `n` when the host has lined none up
(43_random R171, 93_implementation_defined U6: "any value (a draw per Cxkk)"). It has no body, so nothing can
be proved about its value (assumption log 5). -/
opaque Config.freeRandomByte : Nat → Byte

end Sys2Proof
end

