-- ==== Sys2Proof/Syntax.lean ====
section
/-! DEFINITION. The instructions: one constructor per row of spec/opcode_table.json (30_encoding R75), the optional
row Bnnn among them. The fields are those of R14: `x` and `y` register numbers, `n` a count, `kk` a byte, `nnn` a
12-bit address. -/

namespace Sys2Proof

/-- An instruction, named as 30_encoding R75 names its row. -/
inductive Instr where
  /-- 00E0 `CLS` (R100). -/
  | cls
  /-- 00EE `RET` (R101). -/
  | ret
  /-- 1nnn `JP nnn` (R102). -/
  | jp (nnn : Addr12)
  /-- 2nnn `CALL nnn` (R103). -/
  | call (nnn : Addr12)
  /-- 3xkk `SE Vx, kk` (R104). -/
  | seImm (x : Reg) (kk : Byte)
  /-- 4xkk `SNE Vx, kk` (R105). -/
  | sneImm (x : Reg) (kk : Byte)
  /-- 5xy0 `SE Vx, Vy` (R106). -/
  | seReg (x y : Reg)
  /-- 9xy0 `SNE Vx, Vy` (R107). -/
  | sneReg (x y : Reg)
  /-- 6xkk `LD Vx, kk` (R120). -/
  | ldImm (x : Reg) (kk : Byte)
  /-- 7xkk `ADD Vx, kk` (R121). -/
  | addImm (x : Reg) (kk : Byte)
  /-- 8xy0 `LD Vx, Vy` (R122). -/
  | ldReg (x y : Reg)
  /-- 8xy1 `OR Vx, Vy` (R123). -/
  | orReg (x y : Reg)
  /-- 8xy2 `AND Vx, Vy` (R124). -/
  | andReg (x y : Reg)
  /-- 8xy3 `XOR Vx, Vy` (R125). -/
  | xorReg (x y : Reg)
  /-- 8xy4 `ADD Vx, Vy` (R126). -/
  | addReg (x y : Reg)
  /-- 8xy5 `SUB Vx, Vy` (R127). -/
  | subReg (x y : Reg)
  /-- 8xy7 `SUBN Vx, Vy` (R128). -/
  | subnReg (x y : Reg)
  /-- 8xy6 `SHR Vx {, Vy}` (R129); `y` is ignored (R77) and kept only so that each word has its own instruction. -/
  | shr (x y : Reg)
  /-- 8xyE `SHL Vx {, Vy}` (R130); `y` is ignored (R77). -/
  | shl (x y : Reg)
  /-- Annn `LD I, nnn` (R150). -/
  | ldI (nnn : Addr12)
  /-- Fx1E `ADD I, Vx` (R151). -/
  | addI (x : Reg)
  /-- Fx29 `LD F, Vx` (R152). -/
  | ldF (x : Reg)
  /-- Fx33 `LD B, Vx` (R153). -/
  | ldB (x : Reg)
  /-- Fx55 `LD [I], Vx` (R154). -/
  | storeRegs (x : Reg)
  /-- Fx65 `LD Vx, [I]` (R155). -/
  | loadRegs (x : Reg)
  /-- Cxkk `RND Vx, kk` (R170). -/
  | rnd (x : Reg) (kk : Byte)
  /-- Ex9E `SKP Vx` (R180). -/
  | skp (x : Reg)
  /-- ExA1 `SKNP Vx` (R181). -/
  | sknp (x : Reg)
  /-- Fx0A `LD Vx, K` (R182). -/
  | ldKey (x : Reg)
  /-- Dxyn `DRW Vx, Vy, n` (R190). -/
  | drw (x y : Reg) (n : Fin 16)
  /-- Fx07 `LD Vx, DT` (R210). -/
  | ldVDt (x : Reg)
  /-- Fx15 `LD DT, Vx` (R211). -/
  | ldDtV (x : Reg)
  /-- Fx18 `LD ST, Vx` (R212). -/
  | ldStV (x : Reg)
  /-- Bnnn `JP V0, nnn` (R108), an instruction only under BNNN_MODE = jump_v0. -/
  | jpV0 (nnn : Addr12)
  deriving DecidableEq, Repr

end Sys2Proof
end

