-- ==== Sys2Proof/WellFormed.lean ====
section
/-! DEFINITION. Which instructions a machine has. Every value of a free field is legal (30_encoding R77) and the
fields' own types bound them (10_state R23), so one check is left: Bnnn is an instruction only under
BNNN_MODE = jump_v0 (30_encoding R75, R78; 40_control_flow R108). -/

namespace Sys2Proof

/-- `i` is an instruction of a machine with this BNNN_MODE (R75, R78). -/
def Instr.wellFormed (mode : BnnnMode) : Instr → Bool
  | .jpV0 _ => mode == .jumpV0
  | .cls | .ret | .jp _ | .call _ | .seImm _ _ | .sneImm _ _ | .seReg _ _ | .sneReg _ _
  | .ldImm _ _ | .addImm _ _ | .ldReg _ _ | .orReg _ _ | .andReg _ _ | .xorReg _ _
  | .addReg _ _ | .subReg _ _ | .subnReg _ _ | .shr _ _ | .shl _ _
  | .ldI _ | .addI _ | .ldF _ | .ldB _ | .storeRegs _ | .loadRegs _ | .rnd _ _
  | .skp _ | .sknp _ | .ldKey _ | .drw _ _ _ | .ldVDt _ | .ldDtV _ | .ldStV _ => true

end Sys2Proof
end

