-- ==== Sys2Proof/Decode.lean ====
section
/-! DEFINITION. Decoding by the four nibbles of the word (30_encoding R72 to R78), on words and on bytes, and the
encoder written from the same table (R73, R75). -/

namespace Sys2Proof

/-! ### The fields of a word (00_scope R14, 30_encoding R72) -/

/-- `c = op[15:12]`, the class nibble, as a number for dispatch. -/
def classNibble (op : Word) : Nat := (op.extractLsb' 12 4).toNat

/-- `x = op[11:8]`. -/
def fieldX (op : Word) : Reg := (op.extractLsb' 8 4).toFin

/-- `y = op[7:4]`. -/
def fieldY (op : Word) : Reg := (op.extractLsb' 4 4).toFin

/-- `n = op[3:0]`. -/
def fieldN (op : Word) : Fin 16 := (op.extractLsb' 0 4).toFin

/-- `kk = op[7:0]`. -/
def fieldKk (op : Word) : Byte := op.extractLsb' 0 8

/-- `nnn = op[11:0]`. -/
def fieldNnn (op : Word) : Addr12 := op.extractLsb' 0 12

/-! ### Decoding -/

/-- Class 8: the function nibble is matched exactly (R75, R76). -/
def decodeClass8 (op : Word) : Option Instr :=
  match (fieldN op).val with
  | 0x0 => some (.ldReg (fieldX op) (fieldY op))
  | 0x1 => some (.orReg (fieldX op) (fieldY op))
  | 0x2 => some (.andReg (fieldX op) (fieldY op))
  | 0x3 => some (.xorReg (fieldX op) (fieldY op))
  | 0x4 => some (.addReg (fieldX op) (fieldY op))
  | 0x5 => some (.subReg (fieldX op) (fieldY op))
  | 0x6 => some (.shr (fieldX op) (fieldY op))
  | 0x7 => some (.subnReg (fieldX op) (fieldY op))
  | 0xE => some (.shl (fieldX op) (fieldY op))
  | _ => none

/-- Class E: the function byte is matched exactly (R75, R76). -/
def decodeClassE (op : Word) : Option Instr :=
  match (fieldKk op).toNat with
  | 0x9E => some (.skp (fieldX op))
  | 0xA1 => some (.sknp (fieldX op))
  | _ => none

/-- Class F: the function byte is matched exactly (R75, R76). -/
def decodeClassF (op : Word) : Option Instr :=
  match (fieldKk op).toNat with
  | 0x07 => some (.ldVDt (fieldX op))
  | 0x0A => some (.ldKey (fieldX op))
  | 0x15 => some (.ldDtV (fieldX op))
  | 0x18 => some (.ldStV (fieldX op))
  | 0x1E => some (.addI (fieldX op))
  | 0x29 => some (.ldF (fieldX op))
  | 0x33 => some (.ldB (fieldX op))
  | 0x55 => some (.storeRegs (fieldX op))
  | 0x65 => some (.loadRegs (fieldX op))
  | _ => none

/-- The row of R75's table, the optional row included, that a word matches; `none` where it matches no row (R76). -/
def decodeRow (op : Word) : Option Instr :=
  match classNibble op with
  | 0x0 =>
    match (fieldNnn op).toNat with
    | 0x0E0 => some .cls
    | 0x0EE => some .ret
    | _ => none
  | 0x1 => some (.jp (fieldNnn op))
  | 0x2 => some (.call (fieldNnn op))
  | 0x3 => some (.seImm (fieldX op) (fieldKk op))
  | 0x4 => some (.sneImm (fieldX op) (fieldKk op))
  | 0x5 => if fieldN op = 0 then some (.seReg (fieldX op) (fieldY op)) else none
  | 0x6 => some (.ldImm (fieldX op) (fieldKk op))
  | 0x7 => some (.addImm (fieldX op) (fieldKk op))
  | 0x8 => decodeClass8 op
  | 0x9 => if fieldN op = 0 then some (.sneReg (fieldX op) (fieldY op)) else none
  | 0xA => some (.ldI (fieldNnn op))
  | 0xB => some (.jpV0 (fieldNnn op))
  | 0xC => some (.rnd (fieldX op) (fieldKk op))
  | 0xD => some (.drw (fieldX op) (fieldY op) (fieldN op))
  | 0xE => decodeClassE op
  | 0xF => decodeClassF op
  | _ => none

/-- Why the decoder refuses. -/
inductive Reject where
  /-- The word matches no row of R75 (R76). -/
  | noRow (op : Word)
  /-- The word is a Bnnn and BNNN_MODE is invalid (R76 class B, R108). -/
  | optionalRowOff (op : Word)
  /-- Fewer than two bytes are left (R80). -/
  | tooFewBytes
  deriving DecidableEq, Repr

/-- The answer of the decoder: an instruction, or a refusal by name. -/
inductive Decoded where
  /-- The word is this instruction. -/
  | instr (i : Instr)
  /-- The word is none, and why. -/
  | rejected (why : Reject)
  deriving DecidableEq, Repr

/-- `decode(op)` of R78 under a BNNN_MODE: total on every 16-bit value. -/
def decode (mode : BnnnMode) (op : Word) : Decoded :=
  match decodeRow op with
  | some i => if i.wellFormed mode then .instr i else .rejected (.optionalRowOff op)
  | none => .rejected (.noRow op)

/-- The big-endian word of two bytes: the byte at the lower address is `op[15:8]` (20_memory R50). -/
def wordOfBytes (hi lo : Byte) : Word := hi ++ lo

/-- Decoding at the front of a byte string: the instruction and the bytes after it. -/
def decodeBytes (mode : BnnnMode) : List Byte → Decoded × List Byte
  | hi :: lo :: rest => (decode mode (wordOfBytes hi lo), rest)
  | short => (.rejected .tooFewBytes, short)

/-! ### Encoding (R73) -/

/-- A register number as the nibble it is encoded in. -/
def nibble (x : Fin 16) : BitVec 4 := BitVec.ofFin x

/-- Format FA: class, address. -/
def formFA (c : BitVec 4) (nnn : Addr12) : Word := c ++ nnn

/-- Formats FXK and FX: class, register, byte. -/
def formFXK (c : BitVec 4) (x : Reg) (kk : Byte) : Word := c ++ nibble x ++ kk

/-- Formats FXY and FXYN: class, two registers, last nibble. -/
def formFXYN (c : BitVec 4) (x y : Reg) (n : BitVec 4) : Word := c ++ nibble x ++ nibble y ++ n

/-- The word of an instruction, from the patterns of R75. -/
def encode : Instr → Word
  | .cls => 0x00E0#16
  | .ret => 0x00EE#16
  | .jp nnn => formFA 0x1#4 nnn
  | .call nnn => formFA 0x2#4 nnn
  | .seImm x kk => formFXK 0x3#4 x kk
  | .sneImm x kk => formFXK 0x4#4 x kk
  | .seReg x y => formFXYN 0x5#4 x y 0x0#4
  | .sneReg x y => formFXYN 0x9#4 x y 0x0#4
  | .ldImm x kk => formFXK 0x6#4 x kk
  | .addImm x kk => formFXK 0x7#4 x kk
  | .ldReg x y => formFXYN 0x8#4 x y 0x0#4
  | .orReg x y => formFXYN 0x8#4 x y 0x1#4
  | .andReg x y => formFXYN 0x8#4 x y 0x2#4
  | .xorReg x y => formFXYN 0x8#4 x y 0x3#4
  | .addReg x y => formFXYN 0x8#4 x y 0x4#4
  | .subReg x y => formFXYN 0x8#4 x y 0x5#4
  | .subnReg x y => formFXYN 0x8#4 x y 0x7#4
  | .shr x y => formFXYN 0x8#4 x y 0x6#4
  | .shl x y => formFXYN 0x8#4 x y 0xE#4
  | .ldI nnn => formFA 0xA#4 nnn
  | .addI x => formFXK 0xF#4 x 0x1E#8
  | .ldF x => formFXK 0xF#4 x 0x29#8
  | .ldB x => formFXK 0xF#4 x 0x33#8
  | .storeRegs x => formFXK 0xF#4 x 0x55#8
  | .loadRegs x => formFXK 0xF#4 x 0x65#8
  | .rnd x kk => formFXK 0xC#4 x kk
  | .skp x => formFXK 0xE#4 x 0x9E#8
  | .sknp x => formFXK 0xE#4 x 0xA1#8
  | .ldKey x => formFXK 0xF#4 x 0x0A#8
  | .drw x y n => formFXYN 0xD#4 x y (nibble n)
  | .ldVDt x => formFXK 0xF#4 x 0x07#8
  | .ldDtV x => formFXK 0xF#4 x 0x15#8
  | .ldStV x => formFXK 0xF#4 x 0x18#8
  | .jpV0 nnn => formFA 0xB#4 nnn

/-- The two bytes of a word as memory holds them, high byte at the lower address (20_memory R50). -/
def bytesOfWord (op : Word) : List Byte := [op.extractLsb' 8 8, op.extractLsb' 0 8]

/-- The bytes of an instruction, in memory order. -/
def encodeBytes (i : Instr) : List Byte := bytesOfWord (encode i)

/-! ### The table's masks (30_encoding R75, R78) -/

/-- The `mask` of an instruction's row: its fixed bits. -/
def rowMask : Instr → Word
  | .cls | .ret => 0xFFFF#16
  | .jp _ | .call _ | .ldI _ | .jpV0 _ => 0xF000#16
  | .seImm _ _ | .sneImm _ _ | .ldImm _ _ | .addImm _ _ | .rnd _ _ | .drw _ _ _ => 0xF000#16
  | .seReg _ _ | .sneReg _ _ | .ldReg _ _ | .orReg _ _ | .andReg _ _ | .xorReg _ _ => 0xF00F#16
  | .addReg _ _ | .subReg _ _ | .subnReg _ _ | .shr _ _ | .shl _ _ => 0xF00F#16
  | .addI _ | .ldF _ | .ldB _ | .storeRegs _ | .loadRegs _ => 0xF0FF#16
  | .skp _ | .sknp _ | .ldKey _ | .ldVDt _ | .ldDtV _ | .ldStV _ => 0xF0FF#16

/-- The `match` of an instruction's row: the value of its fixed bits. -/
def rowMatch : Instr → Word
  | .cls => 0x00E0#16
  | .ret => 0x00EE#16
  | .jp _ => 0x1000#16
  | .call _ => 0x2000#16
  | .seImm _ _ => 0x3000#16
  | .sneImm _ _ => 0x4000#16
  | .seReg _ _ => 0x5000#16
  | .sneReg _ _ => 0x9000#16
  | .ldImm _ _ => 0x6000#16
  | .addImm _ _ => 0x7000#16
  | .ldReg _ _ => 0x8000#16
  | .orReg _ _ => 0x8001#16
  | .andReg _ _ => 0x8002#16
  | .xorReg _ _ => 0x8003#16
  | .addReg _ _ => 0x8004#16
  | .subReg _ _ => 0x8005#16
  | .subnReg _ _ => 0x8007#16
  | .shr _ _ => 0x8006#16
  | .shl _ _ => 0x800E#16
  | .ldI _ => 0xA000#16
  | .addI _ => 0xF01E#16
  | .ldF _ => 0xF029#16
  | .ldB _ => 0xF033#16
  | .storeRegs _ => 0xF055#16
  | .loadRegs _ => 0xF065#16
  | .rnd _ _ => 0xC000#16
  | .skp _ => 0xE09E#16
  | .sknp _ => 0xE0A1#16
  | .ldKey _ => 0xF00A#16
  | .drw _ _ _ => 0xD000#16
  | .ldVDt _ => 0xF007#16
  | .ldDtV _ => 0xF015#16
  | .ldStV _ => 0xF018#16
  | .jpV0 _ => 0xB000#16

/-! ### The opcode table's own numbering of bits -/

/-- The word the opcode table numbers: bit 0 least significant, the bits at `nbits` and above zero. -/
def tableWord (nbits w : Nat) : Word := BitVec.ofNat 16 (w % 2 ^ nbits)

/-- The instruction the decoder reads from the bytes of a table word. The table lists the optional row Bnnn, which
is an instruction under BNNN_MODE = jump_v0 (R75), so that mode is used here (assumption log 4). -/
def decodeTableWord (nbits w : Nat) : Option Instr :=
  match (decodeBytes .jumpV0 (bytesOfWord (tableWord nbits w))).1 with
  | .instr i => some i
  | .rejected _ => none

end Sys2Proof
end

