-- ==== Sys2Proof/Machine/State.lean ====
section
/-! DEFINITION. The state of the machine, whole (10_state R20), its value after reset (R38), and the reasons a
transaction can stop. -/

namespace Sys2Proof.Machine

/-- The kinds of fault a step can raise (60_exceptions R220, codes 1 to 5). -/
inductive FaultKind where
  /-- Code 1: the fetched word is no instruction (R221). -/
  | invalidInstruction
  /-- Code 2: a fetch or a data access would reach an address above 0xFFF (R224). -/
  | addressOutOfRange
  /-- Code 3: 2nnn with sp = 16 (R222). -/
  | stackOverflow
  /-- Code 4: 00EE with sp = 0 (R223). -/
  | stackUnderflow
  /-- Code 5: Ex9E or ExA1 with V[x] > 0x0F (R225). -/
  | keyIndexOutOfRange
  deriving DecidableEq, Repr

/-- The FaultRecord of R220. -/
structure FaultRecord where
  /-- The kind of the fault. -/
  kind : FaultKind
  /-- The numeric code of the kind. -/
  code : Nat
  /-- The fetch address of the faulting step. -/
  pc : Word
  /-- The fetched word, none for a fetch fault. -/
  opcode : Option Word
  /-- The value R220 names for the kind, if it names one. -/
  info : Option Nat
  deriving DecidableEq, Repr

/-- `status` of 10_state R35. -/
inductive Status where
  /-- The core executes instructions. -/
  | running
  /-- A step has faulted; every later step returns this record until reset (R227). -/
  | faulted (r : FaultRecord)
  deriving DecidableEq, Repr

/-- Memory: the listed bytes, in the canonical form of `Memory.wf`. An unlisted address reads as the reset
contents (`unlistedByte`). -/
abbrev Memory := List Host.Cell

/-- The framebuffer, 32 rows of 64 cells (10_state R31). -/
abbrev Framebuffer := Vector (Vector Bool 64) 32

/-- The place of one framebuffer cell: column `x`, row `y` (R31). -/
structure Pixel where
  /-- The column, 0 to 63. -/
  x : Fin 64
  /-- The row, 0 to 31. -/
  y : Fin 32
  deriving DecidableEq, Repr

/-- Why a transaction stops without a next state. -/
inductive Fault where
  /-- OversizedROM, code 6 (60_exceptions R220, 70_reset R262): raised by the host port `load` alone, for a ROM of
  `len` > 0xE00 bytes. No instruction and no step raises it: the faults of a step are taken as states (R226, R231).
  SAFE: nothing changes, as R262 says. -/
  | oversizedRom (len : Nat)
  deriving DecidableEq, Repr

/-- Why an instruction has no meaning here. -/
inductive Refusal where
  /-- Raised only by an arm of `exec` whose instruction has no meaning yet; no arm is so now. SAFE: the model stops. -/
  | notModelled (mnemonic : String)
  deriving DecidableEq, Repr

/-- The state of the machine (10_state R20), the open parameters it was made with (00_scope R9) and the model's own
record of the random port (assumption log 5). -/
structure State where
  /-- The open parameters; nothing writes them. -/
  params : Params
  /-- `mem`, 4096 bytes (R32). -/
  mem : Memory
  /-- `V[0]` to `V[F]` (R21). -/
  v : Vector Byte 16
  /-- `I`, the index register (R28). -/
  i : Word
  /-- `pc`; between steps the address of the next instruction (R26). -/
  pc : Word
  /-- `stack[0]` to `stack[15]` (R25). -/
  stack : Vector Word 16
  /-- `sp`, the number of stack entries in use, 0 to 16 (R25). -/
  sp : Fin 17
  /-- `DT`, the delay timer (R29). -/
  dt : Byte
  /-- `ST`, the sound timer (R29). -/
  st : Byte
  /-- `key[0]` to `key[F]` (R30). -/
  key : Vector Bool 16
  /-- `fb` (R31). -/
  fb : Framebuffer
  /-- `status` (R35). -/
  status : Status
  /-- The model's own: the bytes the host has lined up at the random port, next first (60_exceptions R244). -/
  randomIn : List Byte
  /-- The model's own: how many random bytes have been drawn, the argument of the free value. -/
  draws : Nat
  deriving DecidableEq, Repr

/-- The state after construction with given parameters (70_reset R261, 10_state R38). -/
def State.initial (p : Params) : State where
  params := p
  mem := []
  v := Vector.replicate 16 0x00#8
  i := 0x0000#16
  pc := 0x0200#16
  stack := Vector.replicate 16 0x0000#16
  sp := 0
  dt := 0x00#8
  st := 0x00#8
  key := Vector.replicate 16 false
  fb := Vector.replicate 32 (Vector.replicate 64 false)
  status := .running
  randomIn := []
  draws := 0

/-- The machine right after reset (R38, R260), with the default parameters of R9. -/
def State.reset : State := State.initial Params.default

end Sys2Proof.Machine
end

