-- ==== Sys2Proof/Machine/Ops.lean ====
section
/-! DEFINITION. The named operations over memory, registers, stack, keypad, framebuffer and the random port, and
taking a fault. Every read and write of the state goes through these. -/

namespace Sys2Proof.Machine

/-! ### Memory (20_memory) -/

/-- The last address of memory (10_state R32). -/
def lastAddress : Nat := 0xFFF

/-- What an unlisted address reads as: the reset contents, the font below 0x050 and 0x00 elsewhere
(10_state R38; the zero is the spec's decision D18). -/
def unlistedByte (font : Vector Byte 80) (a : Nat) : Byte :=
  if h : a < 80 then font[a] else 0x00#8

/-- The byte at `a`, where an unlisted byte is `d`. -/
def Memory.read (d : Byte) (a : Nat) : Memory → Byte
  | [] => d
  | (k, b) :: rest => if k = a then b else Memory.read d a rest

/-- Every entry for `a` removed. -/
def Memory.erase (a : Nat) : Memory → Memory
  | [] => []
  | (k, b) :: rest => if k = a then Memory.erase a rest else (k, b) :: Memory.erase a rest

/-- An entry put before the first higher address. -/
def Memory.insert (a : Nat) (b : Byte) : Memory → Memory
  | [] => [(a, b)]
  | (k, c) :: rest => if a < k then (a, b) :: (k, c) :: rest else (k, c) :: Memory.insert a b rest

/-- `b` written at `a`, where an unlisted byte of `a` reads as `d`: writing `d` itself leaves `a` unlisted. -/
def Memory.write (d : Byte) (a : Nat) (b : Byte) (m : Memory) : Memory :=
  if b = d then Memory.erase a m else Memory.insert a b (Memory.erase a m)

/-- Addresses strictly rising from `low` on, below 0x1000, and no entry equal to what its address reads as when
unlisted. -/
def Memory.wfFrom (font : Vector Byte 80) (low : Nat) : Memory → Bool
  | [] => true
  | (k, b) :: rest =>
    decide (low ≤ k) && decide (k ≤ lastAddress) && decide (b ≠ unlistedByte font k) &&
      Memory.wfFrom font (k + 1) rest

/-- The canonical form of a memory over a font. -/
def Memory.wf (font : Vector Byte 80) (m : Memory) : Bool := Memory.wfFrom font 0 m

/-- `MemRead(a, 1)` (00_scope R12, 20_memory R55). -/
def State.readByte (s : State) (a : Nat) : Byte :=
  Memory.read (unlistedByte s.params.font a) a s.mem

/-- `MemWrite(a, 1, b)` (00_scope R12, 20_memory R55), for an address of memory; every caller has checked its
addresses first (R54, R262), and the check here keeps any other address out of the list. -/
def State.writeByte (s : State) (a : Nat) (b : Byte) : State :=
  if a ≤ lastAddress then { s with mem := Memory.write (unlistedByte s.params.font a) a b s.mem } else s

/-- The bytes at `a`, `a+1`, ... written in order. -/
def State.writeBytes (s : State) (a : Nat) : List Byte → State
  | [] => s
  | b :: rest => (s.writeByte a b).writeBytes (a + 1) rest

/-- The `n` bytes at `a`, `a+1`, .... -/
def State.readBytes (s : State) (a : Nat) : Nat → List Byte
  | 0 => []
  | n + 1 => s.readByte a :: s.readBytes (a + 1) n

/-! ### Registers (10_state R21, R26, R28, R29) -/

/-- `V[x]`. -/
def State.reg (s : State) (x : Reg) : Byte := s.v.get x

/-- `V[x] <- b`. -/
def State.setReg (s : State) (x : Reg) (b : Byte) : State := { s with v := s.v.set x b }

/-- `I <- w`. -/
def State.setI (s : State) (w : Word) : State := { s with i := w }

/-- `pc <- w`. -/
def State.setPc (s : State) (w : Word) : State := { s with pc := w }

/-- `DT <- b`. -/
def State.setDt (s : State) (b : Byte) : State := { s with dt := b }

/-- `ST <- b`. -/
def State.setSt (s : State) (b : Byte) : State := { s with st := b }

/-- `pc` moved past the fetched word: A + 2 (10_state R27, 30_encoding R70), modulo 2^16 (R26). -/
def State.advance (s : State) : State := s.setPc (s.pc + 2#16)

/-- `pc` moved past the next word as well, where `c` holds (40_control_flow R109). -/
def State.skipIf (s : State) (c : Bool) : State := if c then s.setPc (s.pc + 2#16) else s

/-- `V[0] .. V[n-1]` written with what `read` gives for each (42_addressing R155). -/
def loadRegs (read : Nat → Byte) (v : Vector Byte 16) : Nat → Vector Byte 16
  | 0 => v
  | n + 1 => (loadRegs read v n).setIfInBounds n (read n)

/-- `V[0] .. V[n-1]` loaded from the bytes at `a`, `a+1`, ... (R155). -/
def State.loadRegsFrom (s : State) (a n : Nat) : State :=
  { s with v := loadRegs (fun k => s.readByte (a + k)) s.v n }

/-! ### Stack (10_state R25) -/

/-- Push: `stack[sp] <- w; sp <- sp + 1`; none with 16 entries in use. -/
def State.push? (s : State) (w : Word) : Option State :=
  if h : s.sp.val < 16 then
    some { s with stack := s.stack.set s.sp.val w h, sp := ⟨s.sp.val + 1, by omega⟩ }
  else none

/-- Pop: `sp <- sp - 1; v <- stack[sp]`, the value and the state after; none with no entry in use. The entry read
keeps its value (R42). -/
def State.pop? (s : State) : Option (Word × State) :=
  if h : s.sp.val = 0 then none
  else some (s.stack[s.sp.val - 1]'(by omega), { s with sp := ⟨s.sp.val - 1, by omega⟩ })

/-! ### Keypad (10_state R30) -/

/-- `key[k]`. -/
def State.keyDown (s : State) (k : Fin 16) : Bool := s.key.get k

/-- `key[k] <- pressed`, the host's alone (60_exceptions R242). -/
def State.setKeyDown (s : State) (k : Fin 16) (pressed : Bool) : State :=
  { s with key := s.key.set k pressed }

/-- The lowest pressed key, by a scan in index order (44_input R182). -/
def State.firstKey? (s : State) : Option Nat := s.key.toList.findIdx? (fun down => down)

/-! ### Framebuffer (10_state R31) -/

/-- `fb[y][x]`. -/
def Framebuffer.cell (fb : Framebuffer) (p : Pixel) : Bool := (fb.get p.y).get p.x

/-- `fb[y][x] <- not fb[y][x]`. -/
def Framebuffer.flip (fb : Framebuffer) (p : Pixel) : Framebuffer :=
  fb.set p.y ((fb.get p.y).set p.x (!(fb.get p.y).get p.x))

/-- Every cell false (40_control_flow R100). -/
def Framebuffer.blank : Framebuffer := Vector.replicate 32 (Vector.replicate 64 false)

/-- The cell at `p`. -/
def State.cell (s : State) (p : Pixel) : Bool := Framebuffer.cell s.fb p

/-- The framebuffer replaced. -/
def State.setFb (s : State) (fb : Framebuffer) : State := { s with fb := fb }

/-- Each pixel of the list flipped in turn; the flag is set where a flipped cell was already on, "before applying
the XOR" (45_display R190). -/
def drawPixels : List Pixel → Framebuffer × Bool → Framebuffer × Bool
  | [], acc => acc
  | p :: rest, (fb, collided) => drawPixels rest (Framebuffer.flip fb p, collided || Framebuffer.cell fb p)

/-! ### Random port (43_random R171) -/

/-- The byte the port gives next: the first one the host has lined up, else the free value of this draw. -/
def State.nextRandom (s : State) : Byte := s.randomIn.headD (Config.freeRandomByte s.draws)

/-- That byte taken: "exactly one byte ... per execution of Cxkk" (R171). -/
def State.drawRandom (s : State) : State :=
  { s with randomIn := s.randomIn.tail, draws := s.draws + 1 }

/-! ### Taking a fault, and leaving it (60_exceptions) -/

/-- The numeric code of a kind (R220). -/
def FaultKind.code : FaultKind → Nat
  | .invalidInstruction => 1
  | .addressOutOfRange => 2
  | .stackOverflow => 3
  | .stackUnderflow => 4
  | .keyIndexOutOfRange => 5

/-- The numeric code of the load failure (R220). -/
def Fault.code : Fault → Nat
  | .oversizedRom _ => 6

/-- Fault entry (R226, R231), from the state before the step, whose `pc` is the fetch address: the record is saved
in `status` and nothing else is written. -/
def takeFault (kind : FaultKind) (opcode : Option Word) (info : Option Nat) (s : State) : State :=
  { s with status := .faulted ⟨kind, kind.code, s.pc, opcode, info⟩ }

/-- `raise` in an instruction (00_scope R13): the step ends in the fault, with the instruction's own word as the
record's opcode. `s` is the state before the step. -/
def raise (instr : Instr) (kind : FaultKind) (info : Option Nat) (s : State) :
    Host.Outcome State Fault Refusal :=
  .next (takeFault kind (some (encode instr)) info s)

/-- Reset in place, the only way out of a fault (60_exceptions R232, 70_reset R260): every component of R38. The
parameters stay, and so does the random port, which is outside the core (R171, assumption log 5). -/
def State.resetInPlace (s : State) : State :=
  { State.initial s.params with randomIn := s.randomIn, draws := s.draws }

end Sys2Proof.Machine
end

