-- ==== Sys2Proof/Machine/Operands.lean ====
section
/-! DEFINITION. The operand forms: immediates, I + k addresses and their range check, glyph addresses, key indices,
BCD digits and sprite pixels (30_encoding R74, 20_memory R54, 42_addressing R156). -/

namespace Sys2Proof.Machine

/-- `zext_16(nnn)` (R74). -/
def zextAddr (nnn : Addr12) : Word := nnn.setWidth 16

/-- `zext_16(b)` (00_scope R10). -/
def zextByte (b : Byte) : Word := b.setWidth 16

/-- The range check of an access to the `count` bytes from I on (20_memory R54): the fault's info, the lowest
address above 0xFFF, or none where every byte is in memory. No byte is accessed when `count` is 0 (R53). -/
def State.dataFault? (s : State) (count : Nat) : Option Nat :=
  if 0 < count ∧ s.i.toNat + (count - 1) > lastAddress then some (max s.i.toNat 0x1000) else none

/-- The key a register value names, none above 0x0F (44_input R180, R181). -/
def keyIndex? (b : Byte) : Option (Fin 16) :=
  if h : b.toNat < 16 then some ⟨b.toNat, h⟩ else none

/-- The digit Fx29 takes from a register value (42_addressing R152). -/
def fontDigit (mode : FontDigitMode) (b : Byte) : Byte :=
  match mode with
  | .unmasked => b
  | .lowNibble => b &&& 0x0F#8

/-- The address of a digit's glyph: digit × 5 (10_state R33, R152). -/
def glyphAddress (mode : FontDigitMode) (b : Byte) : Word := zextByte (fontDigit mode b) * 5#16

/-- Hundreds, tens and ones of a byte (R153). -/
def bcdDigits (b : Byte) : List Byte :=
  [BitVec.ofNat 8 (b.toNat / 100), BitVec.ofNat 8 (b.toNat / 10 % 10), BitVec.ofNat 8 (b.toNat % 10)]

/-- `V[0] .. V[x]` in order (R154). -/
def State.firstRegs (s : State) (x : Reg) : List Byte := s.v.toList.take (x.val + 1)

/-- The column of a coordinate, modulo 64 (45_display R190, R192). -/
def wrapX (n : Nat) : Fin 64 := ⟨n % 64, Nat.mod_lt n (by decide)⟩

/-- The row of a coordinate, modulo 32 (R190, R192). -/
def wrapY (n : Nat) : Fin 32 := ⟨n % 32, Nat.mod_lt n (by decide)⟩

/-- The cells of the set bits of one sprite byte, bit 7 leftmost (R191). -/
def rowPixels (x0 y : Nat) (row : Byte) : List Pixel :=
  (List.range 8).filterMap fun c =>
    if row.getLsbD (7 - c) then some { x := wrapX (x0 + c), y := wrapY y } else none

/-- The cells of the set bits of a sprite's rows, in drawing order (R190). -/
def spritePixels (x0 y0 : Nat) : List Byte → List Pixel
  | [] => []
  | row :: rest => rowPixels x0 y0 row ++ spritePixels x0 (y0 + 1) rest

/-- The sprite of Dxyn: `n` bytes from I on, at the coordinates in V[x] and V[y] (R190). -/
def State.sprite (s : State) (x y : Reg) (n : Fin 16) : List Pixel :=
  spritePixels (s.reg x).toNat (s.reg y).toNat (s.readBytes s.i.toNat n.val)

end Sys2Proof.Machine
end

