-- ==== Sys2Proof/Machine/Addressing.lean ====
section
/-! DEFINITION. The meanings of the addressing, BCD and block-transfer instructions (42_addressing). The range check
comes before every access (20_memory R54), and no access changes I (R156). -/

namespace Sys2Proof.Machine

/-- Annn (R150). -/
def execLdI (nnn : Addr12) (s : State) : Host.Outcome State Fault Refusal :=
  .next (s.advance.setI (zextAddr nnn))

/-- Fx1E (R151): modulo 2^16, no flag. -/
def execAddI (x : Reg) (s : State) : Host.Outcome State Fault Refusal :=
  .next (s.advance.setI (s.i + zextByte (s.reg x)))

/-- Fx29 (R152). -/
def execLdF (x : Reg) (s : State) : Host.Outcome State Fault Refusal :=
  .next (s.advance.setI (glyphAddress s.params.fontDigitMode (s.reg x)))

/-- Fx33 (R153). -/
def execLdB (x : Reg) (s : State) : Host.Outcome State Fault Refusal :=
  match s.dataFault? 3 with
  | some a => raise (.ldB x) .addressOutOfRange (some a) s
  | none => .next (s.advance.writeBytes s.i.toNat (bcdDigits (s.reg x)))

/-- Fx55 (R154). -/
def execStoreRegs (x : Reg) (s : State) : Host.Outcome State Fault Refusal :=
  match s.dataFault? (x.val + 1) with
  | some a => raise (.storeRegs x) .addressOutOfRange (some a) s
  | none => .next (s.advance.writeBytes s.i.toNat (s.firstRegs x))

/-- Fx65 (R155). -/
def execLoadRegs (x : Reg) (s : State) : Host.Outcome State Fault Refusal :=
  match s.dataFault? (x.val + 1) with
  | some a => raise (.loadRegs x) .addressOutOfRange (some a) s
  | none => .next (s.advance.loadRegsFrom s.i.toNat (x.val + 1))

end Sys2Proof.Machine
end

