-- ==== Sys2Proof/Machine/ControlFlow.lean ====
section
/-! DEFINITION. The meanings of the control flow instructions (40_control_flow). In every family file `s` is the
state before the step, whose `pc` is the fetch address A; `s.advance` has pc = A + 2 (10_state R27). -/

namespace Sys2Proof.Machine

/-- 00E0 (R100). -/
def execCls (s : State) : Host.Outcome State Fault Refusal := .next (s.advance.setFb Framebuffer.blank)

/-- 00EE (R101): StackUnderflow with an empty stack (60_exceptions R223). -/
def execRet (s : State) : Host.Outcome State Fault Refusal :=
  match s.advance.pop? with
  | none => raise .ret .stackUnderflow none s
  | some (w, t) => .next (t.setPc w)

/-- 1nnn (R102). -/
def execJp (nnn : Addr12) (s : State) : Host.Outcome State Fault Refusal :=
  .next (s.advance.setPc (zextAddr nnn))

/-- 2nnn (R103): pushes A + 2; StackOverflow with a full stack (60_exceptions R222). -/
def execCall (nnn : Addr12) (s : State) : Host.Outcome State Fault Refusal :=
  match s.advance.push? s.advance.pc with
  | none => raise (.call nnn) .stackOverflow none s
  | some t => .next (t.setPc (zextAddr nnn))

/-- 3xkk (R104). -/
def execSeImm (x : Reg) (kk : Byte) (s : State) : Host.Outcome State Fault Refusal :=
  .next (s.advance.skipIf (s.reg x == kk))

/-- 4xkk (R105). -/
def execSneImm (x : Reg) (kk : Byte) (s : State) : Host.Outcome State Fault Refusal :=
  .next (s.advance.skipIf (s.reg x != kk))

/-- 5xy0 (R106). -/
def execSeReg (x y : Reg) (s : State) : Host.Outcome State Fault Refusal :=
  .next (s.advance.skipIf (s.reg x == s.reg y))

/-- 9xy0 (R107). -/
def execSneReg (x y : Reg) (s : State) : Host.Outcome State Fault Refusal :=
  .next (s.advance.skipIf (s.reg x != s.reg y))

/-- Bnnn (R108): `nnn + V0`, not masked to 12 bits; InvalidInstruction where BNNN_MODE is invalid. -/
def execJpV0 (nnn : Addr12) (s : State) : Host.Outcome State Fault Refusal :=
  match s.params.bnnnMode with
  | .invalid => raise (.jpV0 nnn) .invalidInstruction none s
  | .jumpV0 => .next (s.advance.setPc (zextAddr nnn + zextByte (s.reg 0)))

end Sys2Proof.Machine
end

