-- ==== Sys2Proof/Machine/Flags.lean ====
section
/-! DEFINITION. VF, the only flag (10_state R41): its value for each kind of instruction that writes it, and the
order of the result and the flag (41_register_alu R132). -/

namespace Sys2Proof.Machine

/-- The number of the flag register VF (10_state R21, R41). -/
def flagReg : Reg := 0xF

/-- A flag as the byte VF holds: 0x01 or 0x00. -/
def flagByte (c : Bool) : Byte := if c then 0x01#8 else 0x00#8

/-- Carry of 8xy4: the true sum exceeds 255 (R126). -/
def carry (a b : Byte) : Bool := decide (a.toNat + b.toNat > 255)

/-- No borrow in `a - b` (R127, R128). -/
def noBorrow (a b : Byte) : Bool := decide (a.toNat ≥ b.toNat)

/-- The bit a right shift by one shifts out, bit 0 (R129). -/
def bitOutRight (a : Byte) : Bool := a.getLsbD 0

/-- The bit a left shift by one shifts out, bit 7 (R130). -/
def bitOutLeft (a : Byte) : Bool := a.getLsbD 7

/-- VF written as a flag. -/
def State.setFlag (s : State) (c : Bool) : State := s.setReg flagReg (flagByte c)

/-- The result to V[x], then the flag to VF, so that the flag stays when x = F (R132, the spec's decision D10). -/
def State.setResultAndFlag (s : State) (x : Reg) (result : Byte) (flag : Bool) : State :=
  (s.setReg x result).setFlag flag

end Sys2Proof.Machine
end

