-- ==== Sys2Proof/Machine/Display.lean ====
section
/-! DEFINITION. The meaning of the sprite draw (45_display). -/

namespace Sys2Proof.Machine

/-- Dxyn (R190): the range check of the `n` row addresses, the XOR draw, then VF as the collision. The coordinates
are read before VF is written (00_scope R15). -/
def execDrw (x y : Reg) (n : Fin 16) (s : State) : Host.Outcome State Fault Refusal :=
  match s.dataFault? n.val with
  | some a => raise (.drw x y n) .addressOutOfRange (some a) s
  | none =>
    .next ((s.advance.setFb (drawPixels (s.sprite x y n) (s.fb, false)).1).setFlag
      (drawPixels (s.sprite x y n) (s.fb, false)).2)

end Sys2Proof.Machine
end

