-- ==== Sys2Proof/Machine/Input.lean ====
section
/-! DEFINITION. The meanings of the keypad instructions (44_input). -/

namespace Sys2Proof.Machine

/-- Ex9E (R180): KeyIndexOutOfRange where V[x] > 0x0F (60_exceptions R225). -/
def execSkp (x : Reg) (s : State) : Host.Outcome State Fault Refusal :=
  match keyIndex? (s.reg x) with
  | none => raise (.skp x) .keyIndexOutOfRange (some (s.reg x).toNat) s
  | some k => .next (s.advance.skipIf (s.keyDown k))

/-- ExA1 (R181): KeyIndexOutOfRange where V[x] > 0x0F (60_exceptions R225). -/
def execSknp (x : Reg) (s : State) : Host.Outcome State Fault Refusal :=
  match keyIndex? (s.reg x) with
  | none => raise (.sknp x) .keyIndexOutOfRange (some (s.reg x).toNat) s
  | some k => .next (s.advance.skipIf (!s.keyDown k))

/-- Fx0A (R182): the lowest pressed key, or `pc` back by 2 so that the next step runs it again (R183). -/
def execLdKey (x : Reg) (s : State) : Host.Outcome State Fault Refusal :=
  match s.firstKey? with
  | some k => .next (s.advance.setReg x (BitVec.ofNat 8 k))
  | none => .next (s.advance.setPc (s.advance.pc - 2#16))

end Sys2Proof.Machine
end

