-- ==== Sys2Proof/Machine/Random.lean ====
section
/-! DEFINITION. The meaning of the random instruction (43_random). -/

namespace Sys2Proof.Machine

/-- Cxkk (R170): one byte is drawn whatever `kk` is (R171). -/
def execRnd (x : Reg) (kk : Byte) (s : State) : Host.Outcome State Fault Refusal :=
  .next (s.advance.drawRandom.setReg x (s.nextRandom &&& kk))

end Sys2Proof.Machine
end

