-- ==== Sys2Proof/Machine/Timers.lean ====
section
/-! DEFINITION. The meanings of the timer instructions (46_timers); the countdown is the host's, Machine/Ports.lean. -/

namespace Sys2Proof.Machine

/-- Fx07 (R210). -/
def execLdVDt (x : Reg) (s : State) : Host.Outcome State Fault Refusal := .next (s.advance.setReg x s.dt)

/-- Fx15 (R211). -/
def execLdDtV (x : Reg) (s : State) : Host.Outcome State Fault Refusal := .next (s.advance.setDt (s.reg x))

/-- Fx18 (R212): no tone-end. -/
def execLdStV (x : Reg) (s : State) : Host.Outcome State Fault Refusal := .next (s.advance.setSt (s.reg x))

end Sys2Proof.Machine
end

