-- ==== Sys2Proof/Machine/Fetch.lean ====
section
/-! DEFINITION. The part of a step before the instruction runs: the status check, the fetch and the decode, in the
order of 60_exceptions R228 (30_encoding R70); and placing a word where the next fetch reads it. -/

namespace Sys2Proof.Machine

/-- The last address an instruction can be fetched from (20_memory R52). -/
def lastFetch : Nat := 0xFFE

/-- The word at `pc`, big-endian (20_memory R50), where both its bytes are in memory (R52). -/
def State.fetchWord? (s : State) : Option Word :=
  if s.pc.toNat ≤ lastFetch then
    some (wordOfBytes (s.readByte s.pc.toNat) (s.readByte (s.pc.toNat + 1)))
  else none

/-- The first address outside memory that a fetch at `pc` would reach (R52). -/
def State.fetchFaultAddress (s : State) : Nat := if s.pc.toNat = 0xFFF then 0x1000 else s.pc.toNat

/-- What a step finds before it runs an instruction. -/
inductive Fetched where
  /-- An instruction to run. -/
  | run (i : Instr)
  /-- Nothing to run: the step ends in this state. -/
  | ends (t : State)
  deriving DecidableEq, Repr

/-- The status check (R227), the fetch range (R52), the fetch (R50) and the decode (30_encoding R78), in the order of
R228. -/
def fetchDecode (s : State) : Fetched :=
  match s.status with
  | .faulted _ => .ends s
  | .running =>
    match s.fetchWord? with
    | none => .ends (takeFault .addressOutOfRange none (some s.fetchFaultAddress) s)
    | some op =>
      match decode s.params.bnnnMode op with
      | .instr i => .run i
      | .rejected _ => .ends (takeFault .invalidInstruction (some op) none s)

/-- `s` with a table word at `pc`, as its two bytes in memory order. A Bnnn word also takes BNNN_MODE = jump_v0, the
condition under which the table lists its row (30_encoding R75, assumption log 4). -/
def State.placeWord (s : State) (op : Word) : State :=
  State.writeBytes
    { s with params := { s.params with
        bnnnMode := if classNibble op = 0xB then .jumpV0 else s.params.bnnnMode } }
    s.pc.toNat (bytesOfWord op)

end Sys2Proof.Machine
end

