-- ==== Sys2Proof/Machine/Step.lean ====
section
/-! DEFINITION. One step of the core (30_encoding R70), and the host's placing of an instruction word. -/

namespace Sys2Proof.Machine

/-- `step()` (R70): one fetch, decode and execute. A fault of the spec is a next state whose status holds the record
(60_exceptions R226, R231), and a step of a faulted core changes nothing (R227). -/
def step (s : State) : Host.Outcome State Fault Refusal :=
  match fetchDecode s with
  | .run i => exec i s
  | .ends t => .next t

/-- `s` with the table word `w` where `step` fetches its next instruction. -/
def State.withFetchWord (s : State) (nbits w : Nat) : State := s.placeWord (tableWord nbits w)

end Sys2Proof.Machine
end

