-- ==== Sys2Proof/Machine/Ports.lean ====
section
/-! DEFINITION. The host ports (60_exceptions R240): step with its random byte, the timer step, key_set, load, reset
and display, each one atomic transaction, and any sequence of them (R241). -/

namespace Sys2Proof.Machine

/-- One countdown: "decrement by 1", floor at 0 (60_exceptions R234, 10_state R29). -/
def countDown (b : Byte) : Byte := if b = 0x00#8 then b else b - 1#8

/-- `tickTimers()` (R234): both timers count down; `tone_end` where ST was 1 (R235). -/
def tickTimers (s : State) : State × Bool :=
  ((s.setDt (countDown s.dt)).setSt (countDown s.st), s.st == 0x01#8)

/-- Where a program is loaded and starts (00_scope R8). -/
def romBase : Nat := 0x200

/-- The longest program (00_scope R8, 70_reset R262). -/
def romMax : Nat := 0xE00

/-- `load(bytes)` (R262): the bytes copied at 0x200, or OversizedROM with nothing changed. -/
def load (bytes : List Byte) (s : State) : Host.Outcome State Fault Refusal :=
  if bytes.length > romMax then .fault (.oversizedRom bytes.length) else .next (s.writeBytes romBase bytes)

/-- `display()` (R243): the 2048 cells, cell (x, y) at index y·64 + x. -/
def display (s : State) : List Bool := s.fb.toList.flatMap Vector.toList

/-- A call of the host (R240). -/
inductive HostCall where
  /-- One step, with the byte the random port carries for it. -/
  | step (random : Byte)
  /-- The timer step. -/
  | tick
  /-- `setKey(index, pressed)`; the index is 4 bits wide (R242). -/
  | keySet (index : Fin 16) (pressed : Bool)
  /-- `load(bytes)`. -/
  | load (bytes : List Byte)
  /-- `reset()`. -/
  | reset
  /-- `display()`. -/
  | display
  deriving DecidableEq, Repr

/-- What a call returns (R240). -/
inductive Response where
  /-- Nothing to report. -/
  | done
  /-- A step or a load that succeeded. -/
  | ok
  /-- A step that failed (R220, R227). -/
  | fail (r : FaultRecord)
  /-- The timer step's output bit. -/
  | toneEnd (b : Bool)
  /-- A load that did not occur (R262). -/
  | loadFailed (f : Fault)
  /-- The cells `display` returns. -/
  | cells (view : List Bool)
  deriving DecidableEq, Repr

/-- What a step returns, read from the state it leaves: the record of a faulted status, else Ok (R220, R227). -/
def State.stepResponse (s : State) : Response :=
  match s.status with
  | .running => .ok
  | .faulted r => .fail r

/-- The step port (R240): the byte is presented for this one step, "used only if the instruction is Cxkk"; what the
host had lined up besides stays. -/
def stepPort (random : Byte) (s : State) : Host.Outcome (State × Response) Fault Refusal :=
  match step { s with randomIn := random :: s.randomIn } with
  | .next t => .next ({ t with randomIn := s.randomIn }, t.stepResponse)
  | .fault f => .fault f
  | .refused r => .refused r

/-- The load port (R240, R262): a failure is a response, and the state stays. -/
def loadPort (bytes : List Byte) (s : State) : Host.Outcome (State × Response) Fault Refusal :=
  match load bytes s with
  | .next t => .next (t, .ok)
  | .fault f => .next (s, .loadFailed f)
  | .refused r => .refused r

/-- One transaction of the host: the state after and what is returned (R240). -/
def transact (c : HostCall) (s : State) : Host.Outcome (State × Response) Fault Refusal :=
  match c with
  | .step random => stepPort random s
  | .tick => .next ((tickTimers s).1, .toneEnd (tickTimers s).2)
  | .keySet k pressed => .next (s.setKeyDown k pressed, .done)
  | .load bytes => loadPort bytes s
  | .reset => .next (s.resetInPlace, .done)
  | .display => .next (s, .cells (display s))

/-- The state after a sequence of transactions (R241: any calls, in any order, any number of times). -/
def runCalls : List HostCall → State → Host.Outcome State Fault Refusal
  | [], s => .next s
  | c :: rest, s =>
    match transact c s with
    | .next (t, _) => runCalls rest t
    | .fault f => .fault f
    | .refused r => .refused r

end Sys2Proof.Machine
end

