-- ==== Sys2Proof/Safety.lean ====
section
/-! DEFINITION. What claims about the machine say: the invariant of every run, what an instruction may write, the end
of a program, and the cells a sprite covers. Each is written from the spec's prose, not from the meanings. -/

namespace Sys2Proof.Machine

/-! ### The invariant of every run -/

/-- The highest value `pc` can take (70_reset R276). -/
def pcBound : BnnnMode → Nat
  | .invalid => 0x1002
  | .jumpV0 => 0x10FE

/-- Memory is in its canonical form (10_state R32: addresses 0x000 to 0xFFF only). -/
def State.memCanonical (s : State) : Prop := Memory.wf s.params.font s.mem = true

/-- `pc` is within its bound (R276). -/
def State.pcInRange (s : State) : Prop := s.pc.toNat ≤ pcBound s.params.bnnnMode

/-- Every return address in use is at most 0x1000, since a CALL is fetched from 0xFFE at most (R276). -/
def State.returnsInRange (s : State) : Prop := ∀ k : Fin 16, k.val < s.sp.val → (s.stack.get k).toNat ≤ 0x1000

/-- A saved record names the machine's own `pc` and the code of its kind (60_exceptions R220, R226). -/
def State.recordMatches (s : State) : Prop :=
  ∀ r, s.status = .faulted r → r.pc = s.pc ∧ r.code = r.kind.code

/-- What every transaction of the host keeps. -/
structure State.Inv (s : State) : Prop where
  /-- The canonical form of memory. -/
  mem : s.memCanonical
  /-- The bound of `pc`. -/
  pc : s.pcInRange
  /-- The bound of the return addresses in use. -/
  returns : s.returnsInRange
  /-- The record of a fault. -/
  record : s.recordMatches

/-- A state some sequence of host calls leads to from construction (60_exceptions R241, 70_reset R264). -/
def State.Reachable (p : Params) (s : State) : Prop := ∃ calls, runCalls calls (State.initial p) = .next s

/-! ### What an instruction may write (10_state R24, 20_memory R53) -/

/-- The components of the state an instruction may write, besides `pc`. -/
structure Writes where
  /-- General registers. -/
  regs : List Reg := []
  /-- The lowest address stored to. -/
  base : Nat := 0
  /-- How many bytes are stored from there. -/
  bytes : Nat := 0
  /-- The index register. -/
  index : Bool := false
  /-- The stack and `sp`. -/
  stack : Bool := false
  /-- The delay timer. -/
  dt : Bool := false
  /-- The sound timer. -/
  st : Bool := false
  /-- The framebuffer. -/
  fb : Bool := false
  /-- The random port. -/
  random : Bool := false

/-- `t` differs from `s` only in `pc` and in what `w` names. -/
structure Only (w : Writes) (s t : State) : Prop where
  regs : ∀ r, r ∉ w.regs → t.reg r = s.reg r
  bytes : ∀ a, ¬ (w.base ≤ a ∧ a < w.base + w.bytes) → t.readByte a = s.readByte a
  index : w.index = false → t.i = s.i
  stack : w.stack = false → t.stack = s.stack ∧ t.sp = s.sp
  dt : w.dt = false → t.dt = s.dt
  st : w.st = false → t.st = s.st
  fb : w.fb = false → ∀ p, t.cell p = s.cell p
  random : w.random = false → t.randomIn = s.randomIn ∧ t.draws = s.draws
  key : ∀ k, t.keyDown k = s.keyDown k
  status : t.status = s.status
  params : t.params = s.params

/-- The general registers an instruction may write, VF as a flag included (the table of 10_state R24). -/
def regsWritten : Instr → List Reg
  | .ldImm x _ | .addImm x _ | .ldReg x _ | .orReg x _ | .andReg x _ | .xorReg x _ => [x]
  | .rnd x _ | .ldVDt x | .ldKey x => [x]
  | .addReg x _ | .subReg x _ | .subnReg x _ | .shr x _ | .shl x _ => [x, 0xF]
  | .drw _ _ _ => [0xF]
  | .loadRegs x => (List.finRange 16).filter (fun r => r.val ≤ x.val)
  | .cls | .ret | .jp _ | .call _ | .seImm _ _ | .sneImm _ _ | .seReg _ _ | .sneReg _ _ | .jpV0 _ => []
  | .ldI _ | .addI _ | .ldF _ | .ldB _ | .storeRegs _ | .skp _ | .sknp _ | .ldDtV _ | .ldStV _ => []

/-- How many bytes from I on an instruction stores (the table of 20_memory R53). -/
def bytesStored : Instr → Nat
  | .ldB _ => 3
  | .storeRegs x => x.val + 1
  | .cls | .ret | .jp _ | .call _ | .seImm _ _ | .sneImm _ _ | .seReg _ _ | .sneReg _ _ | .jpV0 _ => 0
  | .ldImm _ _ | .addImm _ _ | .ldReg _ _ | .orReg _ _ | .andReg _ _ | .xorReg _ _ => 0
  | .addReg _ _ | .subReg _ _ | .subnReg _ _ | .shr _ _ | .shl _ _ => 0
  | .ldI _ | .addI _ | .ldF _ | .loadRegs _ | .rnd _ _ | .skp _ | .sknp _ | .ldKey _ => 0
  | .drw _ _ _ | .ldVDt _ | .ldDtV _ | .ldStV _ => 0

/-- Whether an instruction writes I (10_state R28): Annn, Fx1E and Fx29 do. -/
def writesIndex : Instr → Bool
  | .ldI _ | .addI _ | .ldF _ => true
  | .cls | .ret | .jp _ | .call _ | .seImm _ _ | .sneImm _ _ | .seReg _ _ | .sneReg _ _ | .jpV0 _ => false
  | .ldImm _ _ | .addImm _ _ | .ldReg _ _ | .orReg _ _ | .andReg _ _ | .xorReg _ _ => false
  | .addReg _ _ | .subReg _ _ | .subnReg _ _ | .shr _ _ | .shl _ _ => false
  | .ldB _ | .storeRegs _ | .loadRegs _ | .rnd _ _ | .skp _ | .sknp _ | .ldKey _ => false
  | .drw _ _ _ | .ldVDt _ | .ldDtV _ | .ldStV _ => false

/-- Whether an instruction reaches the stack (10_state R25): 2nnn and 00EE do. -/
def writesStack : Instr → Bool
  | .ret | .call _ => true
  | .cls | .jp _ | .seImm _ _ | .sneImm _ _ | .seReg _ _ | .sneReg _ _ | .jpV0 _ => false
  | .ldImm _ _ | .addImm _ _ | .ldReg _ _ | .orReg _ _ | .andReg _ _ | .xorReg _ _ => false
  | .addReg _ _ | .subReg _ _ | .subnReg _ _ | .shr _ _ | .shl _ _ => false
  | .ldI _ | .addI _ | .ldF _ | .ldB _ | .storeRegs _ | .loadRegs _ | .rnd _ _ => false
  | .skp _ | .sknp _ | .ldKey _ | .drw _ _ _ | .ldVDt _ | .ldDtV _ | .ldStV _ => false

/-- How many bytes from I on an instruction accesses, read or written (20_memory R53, R54). -/
def accessLength : Instr → Nat
  | .ldB _ => 3
  | .storeRegs x | .loadRegs x => x.val + 1
  | .drw _ _ n => n.val
  | .cls | .ret | .jp _ | .call _ | .seImm _ _ | .sneImm _ _ | .seReg _ _ | .sneReg _ _ | .jpV0 _ => 0
  | .ldImm _ _ | .addImm _ _ | .ldReg _ _ | .orReg _ _ | .andReg _ _ | .xorReg _ _ => 0
  | .addReg _ _ | .subReg _ _ | .subnReg _ _ | .shr _ _ | .shl _ _ => 0
  | .ldI _ | .addI _ | .ldF _ | .rnd _ _ | .skp _ | .sknp _ | .ldKey _ => 0
  | .ldVDt _ | .ldDtV _ | .ldStV _ => 0

/-! ### Faults -/

/-- `s` after a fault of the given kind, code, opcode and info: nothing else changes (60_exceptions R226). -/
def State.faultedWith (s : State) (kind : FaultKind) (code : Nat) (opcode : Option Word) (info : Option Nat) :
    State :=
  { s with status := .faulted ⟨kind, code, s.pc, opcode, info⟩ }

/-- Every byte of an access to `count` bytes from I on is in memory (20_memory R54). -/
def State.inMemory (s : State) (count : Nat) : Prop := ∀ k, k < count → s.i.toNat + k ≤ 0xFFF

/-! ### Sprites (45_display R190, R191) -/

/-- The sprite of `n` rows at V[x], V[y] has a set bit that lands on the cell `p`: bit 7 - c of row `r`, at column
(V[x] + c) mod 64 and row (V[y] + r) mod 32. -/
def State.covers (s : State) (x y : Reg) (n : Fin 16) (p : Pixel) : Prop :=
  ∃ r c : Nat, r < n.val ∧ c < 8 ∧ (s.readByte (s.i.toNat + r)).getLsbD (7 - c) = true ∧
    p.x.val = ((s.reg x).toNat + c) % 64 ∧ p.y.val = ((s.reg y).toNat + r) % 32

/-! ### Runs -/

/-- The next step of `s` executes `i` (30_encoding R70): the core is running, `pc` can be fetched from (20_memory
R52), and the big-endian word there decodes to `i` (R50, R78). -/
def State.executes (s : State) (i : Instr) : Prop :=
  s.status = .running ∧ s.pc.toNat ≤ 0xFFE ∧
    decode s.params.bnnnMode (wordOfBytes (s.readByte s.pc.toNat) (s.readByte (s.pc.toNat + 1))) = .instr i

/-- The end of a program (70_reset R274): running, at a jump to itself. -/
def State.atEnd (s : State) : Prop :=
  s.status = .running ∧ ∃ op, s.fetchWord? = some op ∧ op.toNat = 0x1000 + s.pc.toNat

/-- The output bits of `n` timer steps in a row. -/
def toneEnds : Nat → State → List Bool
  | 0, _ => []
  | n + 1, s => (tickTimers s).2 :: toneEnds n (tickTimers s).1

end Sys2Proof.Machine
end

