-- ==== Sys2Proof/Certificates/Slice0/Obligations.lean ====
section
/-! DEFINITION. The statements for the provers, family by family. `Only w s t` (Safety.lean) is a frame: `t` differs
from `s` only in `pc` and in what `w` names. In a statement about `exec i s`, the address of the instruction is
`s.pc`. "The spec's own decision D<n>" is a choice of 92_eei_decisions.md, not a sentence of the source. -/

open Sys2Proof Sys2Proof.Machine

/-! ### Encoding (30_encoding) -/

/-- Words written out from the patterns of R75, one or more of each family. -/
def Obligations.SampleWordsDecode : Prop :=
  decode .invalid 0x00E0#16 = .instr .cls ∧ decode .invalid 0x00EE#16 = .instr .ret ∧
  decode .invalid 0x2210#16 = .instr (.call 0x210#12) ∧ decode .invalid 0x5120#16 = .instr (.seReg 1 2) ∧
  decode .invalid 0x6A9C#16 = .instr (.ldImm 0xA 0x9C#8) ∧ decode .invalid 0x8F27#16 = .instr (.subnReg 0xF 2) ∧
  decode .invalid 0x812E#16 = .instr (.shl 1 2) ∧ decode .invalid 0xA300#16 = .instr (.ldI 0x300#12) ∧
  decode .invalid 0xF265#16 = .instr (.loadRegs 2) ∧ decode .invalid 0xC30F#16 = .instr (.rnd 3 0x0F#8) ∧
  decode .invalid 0xE1A1#16 = .instr (.sknp 1) ∧ decode .invalid 0xD125#16 = .instr (.drw 1 2 5) ∧
  decode .invalid 0xF218#16 = .instr (.ldStV 2) ∧ decode .jumpV0 0xB300#16 = .instr (.jpV0 0x300#12) ∧
  decode .invalid 0xB300#16 = .rejected (.optionalRowOff 0xB300#16) ∧
  decode .invalid 0x5121#16 = .rejected (.noRow 0x5121#16)

/-- Decoding undoes encoding, for every well-formed instruction and every operand, on words and at the front of any
byte string. -/
def Obligations.DecodeOfEncode : Prop :=
  ∀ (mode : BnnnMode) (i : Instr) (rest : List Byte), i.wellFormed mode = true →
    decode mode (encode i) = .instr i ∧ decodeBytes mode (encodeBytes i ++ rest) = (.instr i, rest)

/-- Encoding undoes decoding: no bit of a word is dropped, the ignored y of the shifts included. -/
def Obligations.EncodeOfDecode : Prop :=
  ∀ (mode : BnnnMode) (op : Word) (i : Instr), decode mode op = .instr i →
    encode i = op ∧ i.wellFormed mode = true

/-- The illegal words are exactly those of R76's table (with the spec's own decisions D6, D7, D8). -/
def Obligations.IllegalWordsAreRejected : Prop :=
  ∀ (mode : BnnnMode) (op : Word), (∃ why, decode mode op = .rejected why) ↔
    (op.toNat / 0x1000 = 0 ∧ op.toNat ≠ 0x00E0 ∧ op.toNat ≠ 0x00EE) ∨
    (op.toNat / 0x1000 = 5 ∧ op.toNat % 0x10 ≠ 0) ∨
    (op.toNat / 0x1000 = 8 ∧ op.toNat % 0x10 ∈ [0x8, 0x9, 0xA, 0xB, 0xC, 0xD, 0xF]) ∨
    (op.toNat / 0x1000 = 9 ∧ op.toNat % 0x10 ≠ 0) ∨
    (op.toNat / 0x1000 = 0xB ∧ mode = .invalid) ∨
    (op.toNat / 0x1000 = 0xE ∧ op.toNat % 0x100 ∉ [0x9E, 0xA1]) ∨
    (op.toNat / 0x1000 = 0xF ∧
      op.toNat % 0x100 ∉ [0x07, 0x0A, 0x15, 0x18, 0x1E, 0x29, 0x33, 0x55, 0x65])

/-- Decoding finds the one row whose mask and match fit the word, and no word fits two rows (R78). -/
def Obligations.DecodeFindsTheOneRow : Prop :=
  ∀ op : Word,
    (∀ i, decodeRow op = some i → op &&& rowMask i = rowMatch i) ∧
    (∀ i, op &&& rowMask i = rowMatch i →
      ∃ j, decodeRow op = some j ∧ rowMatch j = rowMatch i ∧ rowMask j = rowMask i)

/-! ### The step (30_encoding R70, 20_memory, 60_exceptions) -/

/-- A step of a running core whose word decodes to `i` is `exec i`; nothing is added around it (`exec` itself moves
`pc` past the word). -/
def Obligations.StepRunsTheDecodedInstruction : Prop :=
  ∀ (s : State) (i : Instr), s.executes i → step s = exec i s

/-- A step that cannot fetch, and a step whose word is no instruction, take their faults and change nothing else
(R52, R76, R221; the spec's own decisions D2, D4, D6 to D8, D24). -/
def Obligations.FetchAndDecodeFaultsAreTaken : Prop :=
  ∀ s : State, s.status = .running →
    (s.pc.toNat > 0xFFE →
      step s = .next (s.faultedWith .addressOutOfRange 2 none
        (some (if s.pc.toNat = 0xFFF then 0x1000 else s.pc.toNat)))) ∧
    (∀ op why, s.pc.toNat ≤ 0xFFE → op = wordOfBytes (s.readByte s.pc.toNat) (s.readByte (s.pc.toNat + 1)) →
      decode s.params.bnnnMode op = .rejected why →
      step s = .next (s.faultedWith .invalidInstruction 1 (some op) none))

/-- A step of a faulted core changes nothing and returns the record again (R227, the spec's own decision D2); the
other host calls keep their contracts, and reset alone leaves the fault. -/
def Obligations.FaultIsStickyUntilReset : Prop :=
  ∀ (s : State) (r : FaultRecord), s.status = .faulted r →
    step s = .next s ∧ (∀ b, transact (.step b) s = .next (s, .fail r)) ∧
    (∀ c t q, transact c s = .next (t, q) → (t.status = .faulted r ↔ c ≠ .reset)) ∧
    (∀ t q, transact .reset s = .next (t, q) → t.status = .running)

/-- A faulting step writes nothing but the status, and its record holds the fetch address, the code of its kind and
the fetched word, none for a fetch fault (R220, R226; the spec's own decisions D2, D24). -/
def Obligations.FaultsArePrecise : Prop :=
  ∀ (s t : State) (r : FaultRecord), s.status = .running → step s = .next t → t.status = .faulted r →
    t = { s with status := .faulted r } ∧ r.pc = s.pc ∧
    (r.kind, r.code) ∈ [(FaultKind.invalidInstruction, 1), (.addressOutOfRange, 2), (.stackOverflow, 3),
      (.stackUnderflow, 4), (.keyIndexOutOfRange, 5)] ∧
    r.opcode = if s.pc.toNat ≤ 0xFFE
      then some (wordOfBytes (s.readByte s.pc.toNat) (s.readByte (s.pc.toNat + 1))) else none

/-- A step faults exactly when the cause the spec gives for the kind holds (R220, R228; the spec's own decisions D3,
D4, D5, D17, D32). -/
def Obligations.FaultsHaveTheirCauses : Prop :=
  ∀ (s t : State), s.status = .running → step s = .next t → ∀ k : FaultKind,
    (∃ r, t.status = .faulted r ∧ r.kind = k) ↔
      ((k = .addressOutOfRange ∧ s.pc.toNat > 0xFFE) ∨
       (k = .invalidInstruction ∧ s.pc.toNat ≤ 0xFFE ∧ ∀ i, ¬ s.executes i) ∨
       ∃ i, s.executes i ∧
        ((k = .stackOverflow ∧ (∃ nnn, i = .call nnn) ∧ s.sp.val = 16) ∨
         (k = .stackUnderflow ∧ i = .ret ∧ s.sp.val = 0) ∨
         (k = .addressOutOfRange ∧ ¬ s.inMemory (accessLength i)) ∨
         (k = .keyIndexOutOfRange ∧ ∃ x, (i = .skp x ∨ i = .sknp x) ∧ (s.reg x).toNat > 0x0F)))

/-- Every call of the host runs to completion, in every state (R241, R248). -/
def Obligations.EveryTransactionCompletes : Prop :=
  ∀ (c : HostCall) (s : State), ∃ t q, transact c s = .next (t, q)

/-! ### Invariants and whole-machine rules -/

/-- Every step keeps the invariant, from every state that has it (70_reset R276, 10_state R32, R35; the spec's own
decisions D2, D4). The canonical form of memory is the model's own (assumption log 11). -/
def Obligations.StepKeepsInv : Prop :=
  ∀ s t : State, s.Inv → step s = .next t → t.Inv

/-- Every call of the host keeps the invariant, from every state that has it: `pc` stays within R276's bound whatever
is loaded and run (70_reset R276, 60_exceptions R240, R241; the spec's own decisions D1, D2, D4). The canonical form of
memory is the model's own (assumption log 11). -/
def Obligations.EveryTransactionKeepsInv : Prop :=
  ∀ (c : HostCall) (s t : State) (q : Response), s.Inv → transact c s = .next (t, q) → t.Inv

/-- A state just constructed has the invariant, for every choice of the parameters; the reset state with the default
parameters is one of them. That the parameters stand in the state and the canonical form of memory are the model's own
(assumption logs 2 and 11). -/
def Obligations.InitialStateHasInv : Prop :=
  (∀ p : Params, (State.initial p).Inv) ∧ State.reset.Inv

/-- Every state that any sequence of host calls leads to from construction has the parameters it was made with and the
invariant. That the parameters stand in the state, written by no call, is the model's own choice (assumption log 2),
and so is the canonical form of memory (assumption log 11); the bound of `pc` is R276's. -/
def Obligations.ReachableStatesHaveInv : Prop :=
  ∀ (p : Params) (s : State), s.Reachable p → s.params = p ∧ s.Inv

/-- No call of the host changes the parameters (00_scope R9). This is the model's own choice of where the parameters
stand (assumption log 2). -/
def Obligations.ParametersNeverChange : Prop :=
  ∀ (c : HostCall) (s t : State) (q : Response), transact c s = .next (t, q) → t.params = s.params

/-- The core takes one random byte per execution of Cxkk and none at any other time, and the byte of the step port is
used only there (43_random R171, 60_exceptions R240; the spec's own decision D22). The draw counter and the bytes lined
up are the model's own fields (assumption log 5). -/
def Obligations.RandomByteUsedOnlyByRnd : Prop :=
  ∀ s : State,
    (∀ x kk b, s.executes (.rnd x kk) →
      ∃ t, transact (.step b) s = .next (t, .ok) ∧ t.reg x = b &&& kk ∧ t.draws = s.draws + 1 ∧
        t.randomIn = s.randomIn) ∧
    ((∀ x kk, ¬ s.executes (.rnd x kk)) → ∀ b b', transact (.step b) s = transact (.step b') s ∧
      ∀ t q, transact (.step b) s = .next (t, q) → t.draws = s.draws ∧ t.randomIn = s.randomIn)

/-- The keypad is written by setKey and by reset, and by no instruction (10_state R30, 60_exceptions R242). -/
def Obligations.KeysChangeOnlyBySetKey : Prop :=
  (∀ (s : State) (k : Fin 16) (b : Bool), ∃ t, transact (.keySet k b) s = .next (t, .done) ∧ t.keyDown k = b ∧
    (∀ j, j ≠ k → t.keyDown j = s.keyDown j) ∧ t = { s with key := t.key }) ∧
  (∀ (c : HostCall) (s t : State) (q : Response), transact c s = .next (t, q) → c ≠ .reset →
    (∀ k b, c ≠ .keySet k b) → ∀ k, t.keyDown k = s.keyDown k)

/-- DT changes in a step only by Fx15 and ST only by Fx18, each to the register's value (10_state R29, 60_exceptions
R236). -/
def Obligations.TimersWrittenOnlyByTheirInstructions : Prop :=
  ∀ s t : State, step s = .next t →
    (t.dt ≠ s.dt → ∃ x, s.executes (.ldDtV x) ∧ t.dt = s.reg x) ∧
    (t.st ≠ s.st → ∃ x, s.executes (.ldStV x) ∧ t.st = s.reg x)

/-- No instruction reads ST (10_state R29): two states that differ only in ST step to states that differ at most
in ST. -/
def Obligations.SoundTimerIsNeverRead : Prop :=
  ∀ (s t : State) (b : Byte), step s = .next t → ∃ u, step { s with st := b } = .next u ∧ { u with st := t.st } = t

/-- The registers an instruction writes are those of the table of 10_state R24. -/
def Obligations.RegistersWrittenAsTabled : Prop :=
  ∀ (i : Instr) (s t : State), exec i s = .next t → ∀ r, r ∉ regsWritten i → t.reg r = s.reg r

/-- The bytes an instruction writes are those of the table of 20_memory R53: from I on, three for Fx33 and x + 1 for
Fx55, none for every other; every other byte reads as before. -/
def Obligations.MemoryWrittenAsTabled : Prop :=
  ∀ (i : Instr) (s t : State), exec i s = .next t →
    ∀ a, ¬ (s.i.toNat ≤ a ∧ a < s.i.toNat + bytesStored i) → t.readByte a = s.readByte a

/-- I is written only by Annn, Fx1E and Fx29 (10_state R28, 42_addressing R156), the stack only by 2nnn and 00EE
(10_state R25). -/
def Obligations.IndexAndStackWriters : Prop :=
  ∀ (i : Instr) (s t : State), exec i s = .next t →
    (writesIndex i = false → t.i = s.i) ∧ (writesStack i = false → t.stack = s.stack ∧ t.sp = s.sp)

/-! ### Control flow (40_control_flow) -/

/-- 00E0 (R100). -/
def Obligations.ClsClearsEveryCell : Prop :=
  ∀ s : State, ∃ t, exec .cls s = .next t ∧ (∀ p, t.cell p = false) ∧ t.pc = s.pc + 2 ∧ Only { fb := true } s t

/-- 00EE with an entry in use (R101, 10_state R42). -/
def Obligations.RetPops : Prop :=
  ∀ s : State, 0 < s.sp.val →
    ∃ t, exec .ret s = .next t ∧ t.sp.val + 1 = s.sp.val ∧ s.stack[t.sp.val]? = some t.pc ∧ t.stack = s.stack ∧
      Only { stack := true } s t

/-- 2nnn with a free entry (R103): A + 2 is pushed. -/
def Obligations.CallPushes : Prop :=
  ∀ (s : State) (nnn : Addr12), s.sp.val < 16 →
    ∃ t, exec (.call nnn) s = .next t ∧ t.sp.val = s.sp.val + 1 ∧ t.stack[s.sp.val]? = some (s.pc + 2) ∧
      (∀ k, k ≠ s.sp.val → t.stack[k]? = s.stack[k]?) ∧ t.pc.toNat = nnn.toNat ∧ Only { stack := true } s t

/-- 2nnn with a full stack and 00EE with an empty one fault (R222, R223; the spec's own decisions D2, D5). -/
def Obligations.StackFaults : Prop :=
  ∀ s : State,
    (s.sp.val = 16 → ∀ nnn,
      exec (.call nnn) s = .next (s.faultedWith .stackOverflow 3 (some (encode (.call nnn))) none)) ∧
    (s.sp.val = 0 → exec .ret s = .next (s.faultedWith .stackUnderflow 4 (some 0x00EE#16) none))

/-- A RET with the stack as a CALL left it resumes after the CALL, at its address plus 2 (R103). -/
def Obligations.RetResumesAfterCall : Prop :=
  ∀ (s : State) (nnn : Addr12), s.sp.val < 16 →
    ∃ t, exec (.call nnn) s = .next t ∧
      ∀ t' : State, t'.stack = t.stack → t'.sp = t.sp →
        ∃ u, exec .ret t' = .next u ∧ u.pc = s.pc + 2 ∧ u.sp = s.sp

/-- 1nnn (R102). -/
def Obligations.JpJumps : Prop :=
  ∀ (s : State) (nnn : Addr12), ∃ t, exec (.jp nnn) s = .next t ∧ t.pc.toNat = nnn.toNat ∧ Only {} s t

/-- 3xkk and 4xkk (R104, R105). -/
def Obligations.ImmediateSkips : Prop :=
  ∀ (s : State) (x : Reg) (kk : Byte),
    (∃ t, exec (.seImm x kk) s = .next t ∧ t.pc = (if s.reg x = kk then s.pc + 4 else s.pc + 2) ∧ Only {} s t) ∧
    (∃ t, exec (.sneImm x kk) s = .next t ∧ t.pc = (if s.reg x = kk then s.pc + 2 else s.pc + 4) ∧ Only {} s t)

/-- 5xy0 and 9xy0 (R106, R107). -/
def Obligations.RegisterSkips : Prop :=
  ∀ (s : State) (x y : Reg),
    (∃ t, exec (.seReg x y) s = .next t ∧ t.pc = (if s.reg x = s.reg y then s.pc + 4 else s.pc + 2) ∧
      Only {} s t) ∧
    (∃ t, exec (.sneReg x y) s = .next t ∧ t.pc = (if s.reg x = s.reg y then s.pc + 2 else s.pc + 4) ∧
      Only {} s t)

/-- Bnnn (R108, the spec's own decision D6): the jump with offset, not masked to 12 bits, in the mode that has it;
InvalidInstruction in the other. -/
def Obligations.JpV0InEachMode : Prop :=
  ∀ (s : State) (nnn : Addr12),
    (s.params.bnnnMode = .jumpV0 →
      ∃ t, exec (.jpV0 nnn) s = .next t ∧ t.pc.toNat = nnn.toNat + (s.reg 0).toNat ∧ Only {} s t) ∧
    (s.params.bnnnMode = .invalid →
      exec (.jpV0 nnn) s = .next (s.faultedWith .invalidInstruction 1 (some (encode (.jpV0 nnn))) none))

/-! ### Register load and ALU (41_register_alu) -/

/-- 6xkk, 7xkk and 8xy0 (R120, R121, R122): VF is written only as the destination. -/
def Obligations.LoadsAndImmediateAdd : Prop :=
  ∀ (s : State) (x y : Reg) (kk : Byte),
    (∃ t, exec (.ldImm x kk) s = .next t ∧ t.reg x = kk ∧ t.pc = s.pc + 2 ∧ Only { regs := [x] } s t) ∧
    (∃ t, exec (.addImm x kk) s = .next t ∧ (t.reg x).toNat = ((s.reg x).toNat + kk.toNat) % 256 ∧
      t.pc = s.pc + 2 ∧ Only { regs := [x] } s t) ∧
    (∃ t, exec (.ldReg x y) s = .next t ∧ t.reg x = s.reg y ∧ t.pc = s.pc + 2 ∧ Only { regs := [x] } s t)

/-- 8xy1, 8xy2 and 8xy3, bit by bit (R123 to R125); VF is not reset (the spec's own decision D11). -/
def Obligations.BitwiseOperations : Prop :=
  ∀ (s : State) (x y : Reg),
    (∃ t, exec (.orReg x y) s = .next t ∧
      (∀ k < 8, (t.reg x).getLsbD k = ((s.reg x).getLsbD k || (s.reg y).getLsbD k)) ∧
      t.pc = s.pc + 2 ∧ Only { regs := [x] } s t) ∧
    (∃ t, exec (.andReg x y) s = .next t ∧
      (∀ k < 8, (t.reg x).getLsbD k = ((s.reg x).getLsbD k && (s.reg y).getLsbD k)) ∧
      t.pc = s.pc + 2 ∧ Only { regs := [x] } s t) ∧
    (∃ t, exec (.xorReg x y) s = .next t ∧
      (∀ k < 8, (t.reg x).getLsbD k = ((s.reg x).getLsbD k ^^ (s.reg y).getLsbD k)) ∧
      t.pc = s.pc + 2 ∧ Only { regs := [x] } s t)

/-- 8xy4 (R126): the wrapped sum, then the carry in VF, which stays when x = F (the spec's own decision D10). -/
def Obligations.AddWithCarry : Prop :=
  ∀ (s : State) (x y : Reg), ∃ t, exec (.addReg x y) s = .next t ∧
    (x ≠ 0xF → (t.reg x).toNat = ((s.reg x).toNat + (s.reg y).toNat) % 256) ∧
    (t.reg 0xF).toNat = (if (s.reg x).toNat + (s.reg y).toNat > 255 then 1 else 0) ∧
    t.pc = s.pc + 2 ∧ Only { regs := [x, 0xF] } s t

/-- 8xy5 and 8xy7 (R127, R128): the wrapped difference, then NOT borrow in VF, which stays when x = F (the spec's own
decision D10). -/
def Obligations.SubtractWithBorrow : Prop :=
  ∀ (s : State) (x y : Reg),
    (∃ t, exec (.subReg x y) s = .next t ∧
      (x ≠ 0xF → (t.reg x).toNat = ((s.reg x).toNat + 256 - (s.reg y).toNat) % 256) ∧
      (t.reg 0xF).toNat = (if (s.reg x).toNat ≥ (s.reg y).toNat then 1 else 0) ∧
      t.pc = s.pc + 2 ∧ Only { regs := [x, 0xF] } s t) ∧
    (∃ t, exec (.subnReg x y) s = .next t ∧
      (x ≠ 0xF → (t.reg x).toNat = ((s.reg y).toNat + 256 - (s.reg x).toNat) % 256) ∧
      (t.reg 0xF).toNat = (if (s.reg y).toNat ≥ (s.reg x).toNat then 1 else 0) ∧
      t.pc = s.pc + 2 ∧ Only { regs := [x, 0xF] } s t)

/-- 8xy6 and 8xyE (R129, R130): V[x] shifted by one, then the bit shifted out in VF; y is ignored (the spec's own
decisions D9, D10). -/
def Obligations.ShiftsByOne : Prop :=
  ∀ (s : State) (x y : Reg),
    (∃ t, exec (.shr x y) s = .next t ∧ (x ≠ 0xF → (t.reg x).toNat = (s.reg x).toNat / 2) ∧
      (t.reg 0xF).toNat = (s.reg x).toNat % 2 ∧ t.pc = s.pc + 2 ∧ Only { regs := [x, 0xF] } s t) ∧
    (∃ t, exec (.shl x y) s = .next t ∧ (x ≠ 0xF → (t.reg x).toNat = (s.reg x).toNat * 2 % 256) ∧
      (t.reg 0xF).toNat = (s.reg x).toNat / 128 ∧ t.pc = s.pc + 2 ∧ Only { regs := [x, 0xF] } s t) ∧
    (∀ z, exec (.shr x y) s = exec (.shr x z) s ∧ exec (.shl x y) s = exec (.shl x z) s)

/-! ### Addressing (42_addressing) -/

/-- Annn (R150). -/
def Obligations.IndexLoad : Prop :=
  ∀ (s : State) (nnn : Addr12), ∃ t, exec (.ldI nnn) s = .next t ∧ t.i.toNat = nnn.toNat ∧ t.pc = s.pc + 2 ∧
    Only { index := true } s t

/-- Fx1E (R151): no flag, even where I passes 0xFFF (the spec's own decision D13). -/
def Obligations.IndexAdd : Prop :=
  ∀ (s : State) (x : Reg), ∃ t, exec (.addI x) s = .next t ∧
    t.i.toNat = (s.i.toNat + (s.reg x).toNat) % 0x10000 ∧ t.pc = s.pc + 2 ∧ Only { index := true } s t

/-- Fx29 in each FONT_DIGIT_MODE (R152, the spec's own decision D16). -/
def Obligations.GlyphAddress : Prop :=
  ∀ (s : State) (x : Reg), ∃ t, exec (.ldF x) s = .next t ∧
    (s.params.fontDigitMode = .unmasked → t.i.toNat = (s.reg x).toNat * 5) ∧
    (s.params.fontDigitMode = .lowNibble → t.i.toNat = (s.reg x).toNat % 16 * 5) ∧
    t.pc = s.pc + 2 ∧ Only { index := true } s t

/-- Fx33 within memory (R153). -/
def Obligations.BcdStoresThreeDigits : Prop :=
  ∀ (s : State) (x : Reg), s.inMemory 3 → ∃ t, exec (.ldB x) s = .next t ∧
    (t.readByte s.i.toNat).toNat = (s.reg x).toNat / 100 ∧
    (t.readByte (s.i.toNat + 1)).toNat = (s.reg x).toNat / 10 % 10 ∧
    (t.readByte (s.i.toNat + 2)).toNat = (s.reg x).toNat % 10 ∧
    t.pc = s.pc + 2 ∧ Only { base := s.i.toNat, bytes := 3 } s t

/-- Fx55 and Fx65 within memory (R154, R155); I is unchanged (the spec's own decision D12). -/
def Obligations.BlockTransfers : Prop :=
  ∀ (s : State) (x : Reg), s.inMemory (x.val + 1) →
    (∃ t, exec (.storeRegs x) s = .next t ∧ (∀ k, k ≤ x → t.readByte (s.i.toNat + k.val) = s.reg k) ∧
      t.pc = s.pc + 2 ∧ Only { base := s.i.toNat, bytes := x.val + 1 } s t) ∧
    (∃ t, exec (.loadRegs x) s = .next t ∧ (∀ k, k ≤ x → t.reg k = s.readByte (s.i.toNat + k.val)) ∧
      t.pc = s.pc + 2 ∧ Only { regs := (List.finRange 16).filter (fun k => k ≤ x) } s t)

/-- A load of what a store left gives the registers back, whatever happened to them in between (R154, R155; I kept by
the spec's own decision D12). -/
def Obligations.LoadAfterStoreRestores : Prop :=
  ∀ (s : State) (x : Reg), s.inMemory (x.val + 1) → ∃ t, exec (.storeRegs x) s = .next t ∧
    ∀ v, ∃ u, exec (.loadRegs x) { t with v := v } = .next u ∧ ∀ k, k ≤ x → u.reg k = s.reg k

/-- Dxyn, Fx33, Fx55 and Fx65 with any byte above 0xFFF fault before any access, with the lowest such address
(20_memory R54, 60_exceptions R224; the spec's own decisions D2, D3). -/
def Obligations.DataRangeFaults : Prop :=
  ∀ (i : Instr) (s : State), ¬ s.inMemory (accessLength i) →
    exec i s = .next (s.faultedWith .addressOutOfRange 2 (some (encode i)) (some (max s.i.toNat 0x1000)))

/-! ### Random (43_random) -/

/-- Cxkk (R170): the byte drawn is the next one the host has lined up, else the free value of this draw (the model's
own form, assumption log 5; one draw per execution is the spec's own decision D22). -/
def Obligations.RndMasksOneByte : Prop :=
  ∀ (s : State) (x : Reg) (kk : Byte), ∃ t, exec (.rnd x kk) s = .next t ∧
    (∀ b rest, s.randomIn = b :: rest → t.reg x = b &&& kk ∧ t.randomIn = rest) ∧
    (s.randomIn = [] → t.reg x = Config.freeRandomByte s.draws &&& kk ∧ t.randomIn = []) ∧
    t.draws = s.draws + 1 ∧ t.pc = s.pc + 2 ∧ Only { regs := [x], random := true } s t

/-! ### Input (44_input) -/

/-- Ex9E and ExA1 with a key index from 0 to 15 (R180, R181). -/
def Obligations.KeySkips : Prop :=
  ∀ (s : State) (x : Reg) (k : Fin 16), (s.reg x).toNat = k.val →
    (∃ t, exec (.skp x) s = .next t ∧ t.pc = (if s.keyDown k then s.pc + 4 else s.pc + 2) ∧ Only {} s t) ∧
    (∃ t, exec (.sknp x) s = .next t ∧ t.pc = (if s.keyDown k then s.pc + 2 else s.pc + 4) ∧ Only {} s t)

/-- Ex9E and ExA1 with a key index above 15 (R225; the spec's own decisions D2, D17). -/
def Obligations.KeyIndexFaults : Prop :=
  ∀ (s : State) (x : Reg), (s.reg x).toNat > 0x0F →
    exec (.skp x) s =
      .next (s.faultedWith .keyIndexOutOfRange 5 (some (encode (.skp x))) (some (s.reg x).toNat)) ∧
    exec (.sknp x) s =
      .next (s.faultedWith .keyIndexOutOfRange 5 (some (encode (.sknp x))) (some (s.reg x).toNat))

/-- Fx0A (R182): the lowest pressed key, or the state as it was. -/
def Obligations.WaitForKey : Prop :=
  ∀ (s : State) (x : Reg),
    (∀ k : Fin 16, s.keyDown k = true → (∀ j, j < k → s.keyDown j = false) →
      ∃ t, exec (.ldKey x) s = .next t ∧ (t.reg x).toNat = k.val ∧ t.pc = s.pc + 2 ∧ Only { regs := [x] } s t) ∧
    ((∀ k, s.keyDown k = false) → exec (.ldKey x) s = .next s)

/-- A core at an Fx0A with no key pressed stays as it is for any number of steps (R183). -/
def Obligations.WaitForKeyReexecutes : Prop :=
  ∀ (s : State) (x : Reg) (n : Nat), s.executes (.ldKey x) → (∀ k, s.keyDown k = false) →
    Host.Core.run Sys2Proof.core n s = .next s

/-! ### Display (45_display) -/

/-- Dxyn within memory, n = 0 included (R190 to R193): exactly the covered cells flip, coordinates wrapped, and VF is 1
where some cell that was on is off after, else 0 (the spec's own decisions D14, D15). -/
def Obligations.DrawFlipsTheCoveredCells : Prop :=
  ∀ (s : State) (x y : Reg) (n : Fin 16), s.inMemory n.val → ∃ t, exec (.drw x y n) s = .next t ∧
    (∀ p, s.covers x y n p → t.cell p = !s.cell p) ∧ (∀ p, ¬ s.covers x y n p → t.cell p = s.cell p) ∧
    ((∃ p, s.cell p = true ∧ t.cell p = false) → t.reg 0xF = 1) ∧
    ((¬ ∃ p, s.cell p = true ∧ t.cell p = false) → t.reg 0xF = 0) ∧
    t.pc = s.pc + 2 ∧ Only { regs := [0xF], fb := true } s t

/-- The same sprite drawn twice at the same place restores every cell, and the second draw collides where the sprite
has a set bit on a cell that was off at first (R193, which says it of every sprite with a set bit: assumption
log 6). -/
def Obligations.DrawTwiceRestores : Prop :=
  ∀ (s : State) (x y : Reg) (n : Fin 16), s.inMemory n.val → x ≠ 0xF → y ≠ 0xF →
    ∃ t u, exec (.drw x y n) s = .next t ∧ exec (.drw x y n) t = .next u ∧ (∀ p, u.cell p = s.cell p) ∧
      (u.reg 0xF = 1 ↔ ∃ p, s.covers x y n p ∧ s.cell p = false)

/-! ### Timers (46_timers, 60_exceptions) -/

/-- Fx07, Fx15 and Fx18 (R210, R211, R212). -/
def Obligations.TimerInstructions : Prop :=
  ∀ (s : State) (x : Reg),
    (∃ t, exec (.ldVDt x) s = .next t ∧ t.reg x = s.dt ∧ t.pc = s.pc + 2 ∧ Only { regs := [x] } s t) ∧
    (∃ t, exec (.ldDtV x) s = .next t ∧ t.dt = s.reg x ∧ t.pc = s.pc + 2 ∧ Only { dt := true } s t) ∧
    (∃ t, exec (.ldStV x) s = .next t ∧ t.st = s.reg x ∧ t.pc = s.pc + 2 ∧ Only { st := true } s t)

/-- The timer step (R234): both timers down by one with floor 0, the tone end where ST was exactly 1, nothing else; and
no instruction counts either timer down, since only Fx15 changes DT and only Fx18 changes ST. -/
def Obligations.TickCountsDown : Prop :=
  ∀ s : State,
    (∃ t tone, transact .tick s = .next (t, .toneEnd tone) ∧ t.dt.toNat = s.dt.toNat - 1 ∧
      t.st.toNat = s.st.toNat - 1 ∧ (tone = true ↔ s.st.toNat = 1) ∧ t.pc = s.pc ∧
      Only { dt := true, st := true } s t) ∧
    (∀ i u, exec i s = .next u → (u.dt ≠ s.dt → ∃ x, i = .ldDtV x) ∧ (u.st ≠ s.st → ∃ x, i = .ldStV x))

/-- After `n` timer steps in a row DT and ST are down by `n` with floor 0, and the tone end came once where ST reached
0 among them, else never (R234, R235, 70_reset R271). -/
def Obligations.TicksInARow : Prop :=
  ∀ (n : Nat) (s : State), ∃ t, runCalls (List.replicate n .tick) s = .next t ∧
    t.dt.toNat = s.dt.toNat - n ∧ t.st.toNat = s.st.toNat - n ∧
    (toneEnds n s).count true = if 0 < s.st.toNat ∧ s.st.toNat ≤ n then 1 else 0

/-! ### Host ports, reset and load (60_exceptions, 70_reset) -/

/-- `load` (R262): the bytes at 0x200 and nothing else; a longer sequence than 0xE00 fails with code 6 and changes
nothing (the spec's own decisions D24, D26). -/
def Obligations.LoadCopiesOrFails : Prop :=
  ∀ (s : State) (bytes : List Byte),
    (bytes.length ≤ 0xE00 → ∃ t, transact (.load bytes) s = .next (t, .ok) ∧
      (∀ k b, bytes[k]? = some b → t.readByte (0x200 + k) = b) ∧ t.pc = s.pc ∧
      Only { base := 0x200, bytes := bytes.length } s t) ∧
    (bytes.length > 0xE00 →
      transact (.load bytes) s = .next (s, .loadFailed (.oversizedRom bytes.length)) ∧
      (Fault.oversizedRom bytes.length).code = 6)

/-- `reset` (R260) leaves every component at its value of R38, memory outside the font at zero (the spec's own decision
D18), and reset then load is construct then load (R263), the random port aside, which is outside the core (assumption
log 5). -/
def Obligations.ResetRestores : Prop :=
  ∀ s : State, ∃ t, transact .reset s = .next (t, .done) ∧
    (∀ r, t.reg r = 0) ∧ t.i = 0 ∧ t.pc = 0x200 ∧ (∀ k, t.stack.get k = 0) ∧ t.sp = 0 ∧ t.dt = 0 ∧ t.st = 0 ∧
    (∀ k, t.keyDown k = false) ∧ (∀ p, t.cell p = false) ∧
    (∀ a b, s.params.font[a]? = some b → t.readByte a = b) ∧ (∀ a, 0x50 ≤ a → t.readByte a = 0) ∧
    t.status = .running ∧
    (∀ bytes, bytes.length ≤ 0xE00 → ∃ u v, runCalls [.reset, .load bytes] s = .next u ∧
      runCalls [.load bytes] (State.initial s.params) = .next v ∧
      u = { v with randomIn := s.randomIn, draws := s.draws })

/-- `display` (R243): the 2048 cells with cell (x, y) at index y·64 + x, nothing written; and cells change only by 00E0
and Dxyn (and by reset). -/
def Obligations.DisplayShowsTheCells : Prop :=
  (∀ s : State, ∃ view, transact .display s = .next (s, .cells view) ∧ view.length = 2048 ∧
    ∀ p : Pixel, view[p.y.val * 64 + p.x.val]? = some (s.cell p)) ∧
  (∀ (c : HostCall) (s t : State) (q : Response), transact c s = .next (t, q) → c ≠ .reset →
    (∃ p, t.cell p ≠ s.cell p) →
    (∃ b, c = .step b) ∧ (s.executes .cls ∨ ∃ x y n, s.executes (.drw x y n)))

/-- At a jump to itself every step leaves the state as it is (R274, the spec's own decision D33), for any number of
steps. -/
def Obligations.SelfJumpStays : Prop :=
  ∀ (s : State) (n : Nat), s.atEnd → Host.Core.run Sys2Proof.core n s = .next s

/-- Fetch is big-endian (20_memory R50): a byte written at A becomes the high byte of the word fetched at A and the low
byte of the word fetched at A - 1. -/
def Obligations.FetchIsBigEndian : Prop :=
  ∀ (s : State) (b : Byte),
    (∀ hi lo, s.pc.toNat ≤ 0xFFE → hi = s.readByte s.pc.toNat → lo = s.readByte (s.pc.toNat + 1) →
      ∃ op, s.fetchWord? = some op ∧ op.toNat = hi.toNat * 256 + lo.toNat) ∧
    (∀ A, A ≤ 0xFFE → s.pc.toNat = A → ∃ op, (s.writeByte A b).fetchWord? = some op ∧ op.toNat / 256 = b.toNat) ∧
    (∀ A, A ≤ 0xFFF → s.pc.toNat + 1 = A →
      ∃ op, (s.writeByte A b).fetchWord? = some op ∧ op.toNat % 256 = b.toNat)

/-- Two memories in canonical form that read alike at every address are the same data. The canonical form is the
model's own (assumption log 11); 10_state R32 gives the contents. -/
def Obligations.CanonicalMemoryIsUnique : Prop :=
  ∀ s t : State, s.memCanonical → t.memCanonical → s.params = t.params →
    (∀ a, s.readByte a = t.readByte a) → s.mem = t.mem
end

