-- ==== Sys2Proof/Laws/Decode.lean ====
section
/-! SUPPORT. Each field read back from each encoding format, and the bytes of a word read back as the word. -/

namespace Sys2Proof

/-! ### A field of two strings put together -/

/-- A field that lies in the low part. -/
theorem extract_low {m n k l : Nat} (a : BitVec m) (b : BitVec n) (h : k + l ≤ n) :
    (a ++ b).extractLsb' k l = b.extractLsb' k l := by
  ext j hj
  simp only [BitVec.getElem_extractLsb', BitVec.getLsbD_append]
  rw [if_pos (by omega)]

/-- A field that lies in the high part. -/
theorem extract_high {m n k l : Nat} (a : BitVec m) (b : BitVec n) :
    (a ++ b).extractLsb' (n + k) l = a.extractLsb' k l := by
  ext j hj
  simp only [BitVec.getElem_extractLsb', BitVec.getLsbD_append]
  rw [if_neg (by omega)]
  congr 1; omega

/-- The field that is everything. -/
theorem extract_all {n : Nat} (a : BitVec n) : a.extractLsb' 0 n = a := by
  ext j hj
  simp

/-! ### The fields of each format (30_encoding R73) -/

@[simp] theorem toFin_nibble (x : Fin 16) : (nibble x).toFin = x := rfl

@[simp] theorem classNibble_formFA (c : BitVec 4) (nnn : Addr12) : classNibble (formFA c nnn) = c.toNat :=
  congrArg BitVec.toNat ((extract_high (k := 0) c nnn).trans (extract_all c))

@[simp] theorem fieldNnn_formFA (c : BitVec 4) (nnn : Addr12) : fieldNnn (formFA c nnn) = nnn :=
  (extract_low c nnn (by omega)).trans (extract_all nnn)

@[simp] theorem classNibble_formFXK (c : BitVec 4) (x : Reg) (kk : Byte) : classNibble (formFXK c x kk) = c.toNat :=
  congrArg BitVec.toNat <| (extract_high (k := 4) (c ++ nibble x) kk).trans <|
    (extract_high (k := 0) c (nibble x)).trans (extract_all c)

@[simp] theorem fieldX_formFXK (c : BitVec 4) (x : Reg) (kk : Byte) : fieldX (formFXK c x kk) = x :=
  congrArg BitVec.toFin <| (extract_high (k := 0) (c ++ nibble x) kk).trans <|
    (extract_low c (nibble x) (by omega)).trans (extract_all (nibble x))

@[simp] theorem fieldKk_formFXK (c : BitVec 4) (x : Reg) (kk : Byte) : fieldKk (formFXK c x kk) = kk :=
  (extract_low (c ++ nibble x) kk (by omega)).trans (extract_all kk)

@[simp] theorem classNibble_formFXYN (c : BitVec 4) (x y : Reg) (n : BitVec 4) :
    classNibble (formFXYN c x y n) = c.toNat :=
  congrArg BitVec.toNat <| (extract_high (k := 8) (c ++ nibble x ++ nibble y) n).trans <|
    (extract_high (k := 4) (c ++ nibble x) (nibble y)).trans <|
    (extract_high (k := 0) c (nibble x)).trans (extract_all c)

@[simp] theorem fieldX_formFXYN (c : BitVec 4) (x y : Reg) (n : BitVec 4) : fieldX (formFXYN c x y n) = x :=
  congrArg BitVec.toFin <| (extract_high (k := 4) (c ++ nibble x ++ nibble y) n).trans <|
    (extract_high (k := 0) (c ++ nibble x) (nibble y)).trans <|
    (extract_low c (nibble x) (by omega)).trans (extract_all (nibble x))

@[simp] theorem fieldY_formFXYN (c : BitVec 4) (x y : Reg) (n : BitVec 4) : fieldY (formFXYN c x y n) = y :=
  congrArg BitVec.toFin <| (extract_high (k := 0) (c ++ nibble x ++ nibble y) n).trans <|
    (extract_low (c ++ nibble x) (nibble y) (by omega)).trans (extract_all (nibble y))

@[simp] theorem fieldN_formFXYN (c : BitVec 4) (x y : Reg) (n : BitVec 4) : fieldN (formFXYN c x y n) = n.toFin :=
  congrArg BitVec.toFin <| (extract_low (c ++ nibble x ++ nibble y) n (by omega)).trans (extract_all n)

/-! ### The bytes of a word (20_memory R50) -/

/-- The two bytes of a word, read back big-endian, are the word. -/
theorem wordOfBytes_bytesOfWord (op : Word) : wordOfBytes (op.extractLsb' 8 8) (op.extractLsb' 0 8) = op := by
  refine BitVec.eq_of_getLsbD_eq fun j hj => ?_
  refine (BitVec.getLsbD_append (x := op.extractLsb' 8 8) (y := op.extractLsb' 0 8)).trans ?_
  by_cases h : j < 8
  · simp [h]
  · have h8 : 8 + (j - 8) = j := by omega
    have hj' : j - 8 < 8 := by omega
    simp [h, h8, hj']

end Sys2Proof
end

