-- ==== Sys2Proof/Laws/State.lean ====
section
/-! SUPPORT. One lemma per field per update: what each named update leaves in each field of State, and what the
register, memory, keypad and cell reads see of an update of another field. -/

namespace Sys2Proof.Machine

variable (s : State)

/-! ### setReg -/

@[simp] theorem setReg_params (x : Reg) (b : Byte) : (s.setReg x b).params = s.params := rfl
@[simp] theorem setReg_mem (x : Reg) (b : Byte) : (s.setReg x b).mem = s.mem := rfl
@[simp] theorem setReg_v (x : Reg) (b : Byte) : (s.setReg x b).v = s.v.set x b := rfl
@[simp] theorem setReg_i (x : Reg) (b : Byte) : (s.setReg x b).i = s.i := rfl
@[simp] theorem setReg_pc (x : Reg) (b : Byte) : (s.setReg x b).pc = s.pc := rfl
@[simp] theorem setReg_stack (x : Reg) (b : Byte) : (s.setReg x b).stack = s.stack := rfl
@[simp] theorem setReg_sp (x : Reg) (b : Byte) : (s.setReg x b).sp = s.sp := rfl
@[simp] theorem setReg_dt (x : Reg) (b : Byte) : (s.setReg x b).dt = s.dt := rfl
@[simp] theorem setReg_st (x : Reg) (b : Byte) : (s.setReg x b).st = s.st := rfl
@[simp] theorem setReg_key (x : Reg) (b : Byte) : (s.setReg x b).key = s.key := rfl
@[simp] theorem setReg_fb (x : Reg) (b : Byte) : (s.setReg x b).fb = s.fb := rfl
@[simp] theorem setReg_status (x : Reg) (b : Byte) : (s.setReg x b).status = s.status := rfl
@[simp] theorem setReg_randomIn (x : Reg) (b : Byte) : (s.setReg x b).randomIn = s.randomIn := rfl
@[simp] theorem setReg_draws (x : Reg) (b : Byte) : (s.setReg x b).draws = s.draws := rfl
@[simp] theorem setReg_readByte (x : Reg) (b : Byte) (c : Nat) : (s.setReg x b).readByte c = s.readByte c := rfl
@[simp] theorem setReg_keyDown (x : Reg) (b : Byte) (j : Fin 16) : (s.setReg x b).keyDown j = s.keyDown j := rfl
@[simp] theorem setReg_cell (x : Reg) (b : Byte) (p : Pixel) : (s.setReg x b).cell p = s.cell p := rfl

/-! ### setI -/

@[simp] theorem setI_params (w : Word) : (s.setI w).params = s.params := rfl
@[simp] theorem setI_mem (w : Word) : (s.setI w).mem = s.mem := rfl
@[simp] theorem setI_v (w : Word) : (s.setI w).v = s.v := rfl
@[simp] theorem setI_i (w : Word) : (s.setI w).i = w := rfl
@[simp] theorem setI_pc (w : Word) : (s.setI w).pc = s.pc := rfl
@[simp] theorem setI_stack (w : Word) : (s.setI w).stack = s.stack := rfl
@[simp] theorem setI_sp (w : Word) : (s.setI w).sp = s.sp := rfl
@[simp] theorem setI_dt (w : Word) : (s.setI w).dt = s.dt := rfl
@[simp] theorem setI_st (w : Word) : (s.setI w).st = s.st := rfl
@[simp] theorem setI_key (w : Word) : (s.setI w).key = s.key := rfl
@[simp] theorem setI_fb (w : Word) : (s.setI w).fb = s.fb := rfl
@[simp] theorem setI_status (w : Word) : (s.setI w).status = s.status := rfl
@[simp] theorem setI_randomIn (w : Word) : (s.setI w).randomIn = s.randomIn := rfl
@[simp] theorem setI_draws (w : Word) : (s.setI w).draws = s.draws := rfl
@[simp] theorem setI_reg (w : Word) (r : Reg) : (s.setI w).reg r = s.reg r := rfl
@[simp] theorem setI_readByte (w : Word) (c : Nat) : (s.setI w).readByte c = s.readByte c := rfl
@[simp] theorem setI_keyDown (w : Word) (j : Fin 16) : (s.setI w).keyDown j = s.keyDown j := rfl
@[simp] theorem setI_cell (w : Word) (p : Pixel) : (s.setI w).cell p = s.cell p := rfl

/-! ### setPc -/

@[simp] theorem setPc_params (w : Word) : (s.setPc w).params = s.params := rfl
@[simp] theorem setPc_mem (w : Word) : (s.setPc w).mem = s.mem := rfl
@[simp] theorem setPc_v (w : Word) : (s.setPc w).v = s.v := rfl
@[simp] theorem setPc_i (w : Word) : (s.setPc w).i = s.i := rfl
@[simp] theorem setPc_pc (w : Word) : (s.setPc w).pc = w := rfl
@[simp] theorem setPc_stack (w : Word) : (s.setPc w).stack = s.stack := rfl
@[simp] theorem setPc_sp (w : Word) : (s.setPc w).sp = s.sp := rfl
@[simp] theorem setPc_dt (w : Word) : (s.setPc w).dt = s.dt := rfl
@[simp] theorem setPc_st (w : Word) : (s.setPc w).st = s.st := rfl
@[simp] theorem setPc_key (w : Word) : (s.setPc w).key = s.key := rfl
@[simp] theorem setPc_fb (w : Word) : (s.setPc w).fb = s.fb := rfl
@[simp] theorem setPc_status (w : Word) : (s.setPc w).status = s.status := rfl
@[simp] theorem setPc_randomIn (w : Word) : (s.setPc w).randomIn = s.randomIn := rfl
@[simp] theorem setPc_draws (w : Word) : (s.setPc w).draws = s.draws := rfl
@[simp] theorem setPc_reg (w : Word) (r : Reg) : (s.setPc w).reg r = s.reg r := rfl
@[simp] theorem setPc_readByte (w : Word) (c : Nat) : (s.setPc w).readByte c = s.readByte c := rfl
@[simp] theorem setPc_keyDown (w : Word) (j : Fin 16) : (s.setPc w).keyDown j = s.keyDown j := rfl
@[simp] theorem setPc_cell (w : Word) (p : Pixel) : (s.setPc w).cell p = s.cell p := rfl

/-! ### setDt -/

@[simp] theorem setDt_params (b : Byte) : (s.setDt b).params = s.params := rfl
@[simp] theorem setDt_mem (b : Byte) : (s.setDt b).mem = s.mem := rfl
@[simp] theorem setDt_v (b : Byte) : (s.setDt b).v = s.v := rfl
@[simp] theorem setDt_i (b : Byte) : (s.setDt b).i = s.i := rfl
@[simp] theorem setDt_pc (b : Byte) : (s.setDt b).pc = s.pc := rfl
@[simp] theorem setDt_stack (b : Byte) : (s.setDt b).stack = s.stack := rfl
@[simp] theorem setDt_sp (b : Byte) : (s.setDt b).sp = s.sp := rfl
@[simp] theorem setDt_dt (b : Byte) : (s.setDt b).dt = b := rfl
@[simp] theorem setDt_st (b : Byte) : (s.setDt b).st = s.st := rfl
@[simp] theorem setDt_key (b : Byte) : (s.setDt b).key = s.key := rfl
@[simp] theorem setDt_fb (b : Byte) : (s.setDt b).fb = s.fb := rfl
@[simp] theorem setDt_status (b : Byte) : (s.setDt b).status = s.status := rfl
@[simp] theorem setDt_randomIn (b : Byte) : (s.setDt b).randomIn = s.randomIn := rfl
@[simp] theorem setDt_draws (b : Byte) : (s.setDt b).draws = s.draws := rfl
@[simp] theorem setDt_reg (b : Byte) (r : Reg) : (s.setDt b).reg r = s.reg r := rfl
@[simp] theorem setDt_readByte (b : Byte) (c : Nat) : (s.setDt b).readByte c = s.readByte c := rfl
@[simp] theorem setDt_keyDown (b : Byte) (j : Fin 16) : (s.setDt b).keyDown j = s.keyDown j := rfl
@[simp] theorem setDt_cell (b : Byte) (p : Pixel) : (s.setDt b).cell p = s.cell p := rfl

/-! ### setSt -/

@[simp] theorem setSt_params (b : Byte) : (s.setSt b).params = s.params := rfl
@[simp] theorem setSt_mem (b : Byte) : (s.setSt b).mem = s.mem := rfl
@[simp] theorem setSt_v (b : Byte) : (s.setSt b).v = s.v := rfl
@[simp] theorem setSt_i (b : Byte) : (s.setSt b).i = s.i := rfl
@[simp] theorem setSt_pc (b : Byte) : (s.setSt b).pc = s.pc := rfl
@[simp] theorem setSt_stack (b : Byte) : (s.setSt b).stack = s.stack := rfl
@[simp] theorem setSt_sp (b : Byte) : (s.setSt b).sp = s.sp := rfl
@[simp] theorem setSt_dt (b : Byte) : (s.setSt b).dt = s.dt := rfl
@[simp] theorem setSt_st (b : Byte) : (s.setSt b).st = b := rfl
@[simp] theorem setSt_key (b : Byte) : (s.setSt b).key = s.key := rfl
@[simp] theorem setSt_fb (b : Byte) : (s.setSt b).fb = s.fb := rfl
@[simp] theorem setSt_status (b : Byte) : (s.setSt b).status = s.status := rfl
@[simp] theorem setSt_randomIn (b : Byte) : (s.setSt b).randomIn = s.randomIn := rfl
@[simp] theorem setSt_draws (b : Byte) : (s.setSt b).draws = s.draws := rfl
@[simp] theorem setSt_reg (b : Byte) (r : Reg) : (s.setSt b).reg r = s.reg r := rfl
@[simp] theorem setSt_readByte (b : Byte) (c : Nat) : (s.setSt b).readByte c = s.readByte c := rfl
@[simp] theorem setSt_keyDown (b : Byte) (j : Fin 16) : (s.setSt b).keyDown j = s.keyDown j := rfl
@[simp] theorem setSt_cell (b : Byte) (p : Pixel) : (s.setSt b).cell p = s.cell p := rfl

/-! ### setFb -/

@[simp] theorem setFb_params (fb : Framebuffer) : (s.setFb fb).params = s.params := rfl
@[simp] theorem setFb_mem (fb : Framebuffer) : (s.setFb fb).mem = s.mem := rfl
@[simp] theorem setFb_v (fb : Framebuffer) : (s.setFb fb).v = s.v := rfl
@[simp] theorem setFb_i (fb : Framebuffer) : (s.setFb fb).i = s.i := rfl
@[simp] theorem setFb_pc (fb : Framebuffer) : (s.setFb fb).pc = s.pc := rfl
@[simp] theorem setFb_stack (fb : Framebuffer) : (s.setFb fb).stack = s.stack := rfl
@[simp] theorem setFb_sp (fb : Framebuffer) : (s.setFb fb).sp = s.sp := rfl
@[simp] theorem setFb_dt (fb : Framebuffer) : (s.setFb fb).dt = s.dt := rfl
@[simp] theorem setFb_st (fb : Framebuffer) : (s.setFb fb).st = s.st := rfl
@[simp] theorem setFb_key (fb : Framebuffer) : (s.setFb fb).key = s.key := rfl
@[simp] theorem setFb_fb (fb : Framebuffer) : (s.setFb fb).fb = fb := rfl
@[simp] theorem setFb_status (fb : Framebuffer) : (s.setFb fb).status = s.status := rfl
@[simp] theorem setFb_randomIn (fb : Framebuffer) : (s.setFb fb).randomIn = s.randomIn := rfl
@[simp] theorem setFb_draws (fb : Framebuffer) : (s.setFb fb).draws = s.draws := rfl
@[simp] theorem setFb_reg (fb : Framebuffer) (r : Reg) : (s.setFb fb).reg r = s.reg r := rfl
@[simp] theorem setFb_readByte (fb : Framebuffer) (c : Nat) : (s.setFb fb).readByte c = s.readByte c := rfl
@[simp] theorem setFb_keyDown (fb : Framebuffer) (j : Fin 16) : (s.setFb fb).keyDown j = s.keyDown j := rfl

/-! ### setKeyDown -/

@[simp] theorem setKeyDown_params (k : Fin 16) (b : Bool) : (s.setKeyDown k b).params = s.params := rfl
@[simp] theorem setKeyDown_mem (k : Fin 16) (b : Bool) : (s.setKeyDown k b).mem = s.mem := rfl
@[simp] theorem setKeyDown_v (k : Fin 16) (b : Bool) : (s.setKeyDown k b).v = s.v := rfl
@[simp] theorem setKeyDown_i (k : Fin 16) (b : Bool) : (s.setKeyDown k b).i = s.i := rfl
@[simp] theorem setKeyDown_pc (k : Fin 16) (b : Bool) : (s.setKeyDown k b).pc = s.pc := rfl
@[simp] theorem setKeyDown_stack (k : Fin 16) (b : Bool) : (s.setKeyDown k b).stack = s.stack := rfl
@[simp] theorem setKeyDown_sp (k : Fin 16) (b : Bool) : (s.setKeyDown k b).sp = s.sp := rfl
@[simp] theorem setKeyDown_dt (k : Fin 16) (b : Bool) : (s.setKeyDown k b).dt = s.dt := rfl
@[simp] theorem setKeyDown_st (k : Fin 16) (b : Bool) : (s.setKeyDown k b).st = s.st := rfl
@[simp] theorem setKeyDown_key (k : Fin 16) (b : Bool) : (s.setKeyDown k b).key = s.key.set k b := rfl
@[simp] theorem setKeyDown_fb (k : Fin 16) (b : Bool) : (s.setKeyDown k b).fb = s.fb := rfl
@[simp] theorem setKeyDown_status (k : Fin 16) (b : Bool) : (s.setKeyDown k b).status = s.status := rfl
@[simp] theorem setKeyDown_randomIn (k : Fin 16) (b : Bool) : (s.setKeyDown k b).randomIn = s.randomIn := rfl
@[simp] theorem setKeyDown_draws (k : Fin 16) (b : Bool) : (s.setKeyDown k b).draws = s.draws := rfl
@[simp] theorem setKeyDown_reg (k : Fin 16) (b : Bool) (r : Reg) : (s.setKeyDown k b).reg r = s.reg r := rfl
@[simp] theorem setKeyDown_readByte (k : Fin 16) (b : Bool) (c : Nat) : (s.setKeyDown k b).readByte c = s.readByte c := rfl
@[simp] theorem setKeyDown_cell (k : Fin 16) (b : Bool) (p : Pixel) : (s.setKeyDown k b).cell p = s.cell p := rfl

/-! ### advance -/

@[simp] theorem advance_params : (s.advance).params = s.params := rfl
@[simp] theorem advance_mem : (s.advance).mem = s.mem := rfl
@[simp] theorem advance_v : (s.advance).v = s.v := rfl
@[simp] theorem advance_i : (s.advance).i = s.i := rfl
@[simp] theorem advance_pc : (s.advance).pc = s.pc + 2#16 := rfl
@[simp] theorem advance_stack : (s.advance).stack = s.stack := rfl
@[simp] theorem advance_sp : (s.advance).sp = s.sp := rfl
@[simp] theorem advance_dt : (s.advance).dt = s.dt := rfl
@[simp] theorem advance_st : (s.advance).st = s.st := rfl
@[simp] theorem advance_key : (s.advance).key = s.key := rfl
@[simp] theorem advance_fb : (s.advance).fb = s.fb := rfl
@[simp] theorem advance_status : (s.advance).status = s.status := rfl
@[simp] theorem advance_randomIn : (s.advance).randomIn = s.randomIn := rfl
@[simp] theorem advance_draws : (s.advance).draws = s.draws := rfl
@[simp] theorem advance_reg (r : Reg) : (s.advance).reg r = s.reg r := rfl
@[simp] theorem advance_readByte (c : Nat) : (s.advance).readByte c = s.readByte c := rfl
@[simp] theorem advance_keyDown (j : Fin 16) : (s.advance).keyDown j = s.keyDown j := rfl
@[simp] theorem advance_cell (p : Pixel) : (s.advance).cell p = s.cell p := rfl

/-! ### drawRandom -/

@[simp] theorem drawRandom_params : (s.drawRandom).params = s.params := rfl
@[simp] theorem drawRandom_mem : (s.drawRandom).mem = s.mem := rfl
@[simp] theorem drawRandom_v : (s.drawRandom).v = s.v := rfl
@[simp] theorem drawRandom_i : (s.drawRandom).i = s.i := rfl
@[simp] theorem drawRandom_pc : (s.drawRandom).pc = s.pc := rfl
@[simp] theorem drawRandom_stack : (s.drawRandom).stack = s.stack := rfl
@[simp] theorem drawRandom_sp : (s.drawRandom).sp = s.sp := rfl
@[simp] theorem drawRandom_dt : (s.drawRandom).dt = s.dt := rfl
@[simp] theorem drawRandom_st : (s.drawRandom).st = s.st := rfl
@[simp] theorem drawRandom_key : (s.drawRandom).key = s.key := rfl
@[simp] theorem drawRandom_fb : (s.drawRandom).fb = s.fb := rfl
@[simp] theorem drawRandom_status : (s.drawRandom).status = s.status := rfl
@[simp] theorem drawRandom_randomIn : (s.drawRandom).randomIn = s.randomIn.tail := rfl
@[simp] theorem drawRandom_draws : (s.drawRandom).draws = s.draws + 1 := rfl
@[simp] theorem drawRandom_reg (r : Reg) : (s.drawRandom).reg r = s.reg r := rfl
@[simp] theorem drawRandom_readByte (c : Nat) : (s.drawRandom).readByte c = s.readByte c := rfl
@[simp] theorem drawRandom_keyDown (j : Fin 16) : (s.drawRandom).keyDown j = s.keyDown j := rfl
@[simp] theorem drawRandom_cell (p : Pixel) : (s.drawRandom).cell p = s.cell p := rfl

/-! ### loadRegsFrom -/

@[simp] theorem loadRegsFrom_params (a n : Nat) : (s.loadRegsFrom a n).params = s.params := rfl
@[simp] theorem loadRegsFrom_mem (a n : Nat) : (s.loadRegsFrom a n).mem = s.mem := rfl
@[simp] theorem loadRegsFrom_v (a n : Nat) : (s.loadRegsFrom a n).v = loadRegs (fun k => s.readByte (a + k)) s.v n := rfl
@[simp] theorem loadRegsFrom_i (a n : Nat) : (s.loadRegsFrom a n).i = s.i := rfl
@[simp] theorem loadRegsFrom_pc (a n : Nat) : (s.loadRegsFrom a n).pc = s.pc := rfl
@[simp] theorem loadRegsFrom_stack (a n : Nat) : (s.loadRegsFrom a n).stack = s.stack := rfl
@[simp] theorem loadRegsFrom_sp (a n : Nat) : (s.loadRegsFrom a n).sp = s.sp := rfl
@[simp] theorem loadRegsFrom_dt (a n : Nat) : (s.loadRegsFrom a n).dt = s.dt := rfl
@[simp] theorem loadRegsFrom_st (a n : Nat) : (s.loadRegsFrom a n).st = s.st := rfl
@[simp] theorem loadRegsFrom_key (a n : Nat) : (s.loadRegsFrom a n).key = s.key := rfl
@[simp] theorem loadRegsFrom_fb (a n : Nat) : (s.loadRegsFrom a n).fb = s.fb := rfl
@[simp] theorem loadRegsFrom_status (a n : Nat) : (s.loadRegsFrom a n).status = s.status := rfl
@[simp] theorem loadRegsFrom_randomIn (a n : Nat) : (s.loadRegsFrom a n).randomIn = s.randomIn := rfl
@[simp] theorem loadRegsFrom_draws (a n : Nat) : (s.loadRegsFrom a n).draws = s.draws := rfl
@[simp] theorem loadRegsFrom_readByte (a n : Nat) (c : Nat) : (s.loadRegsFrom a n).readByte c = s.readByte c := rfl
@[simp] theorem loadRegsFrom_keyDown (a n : Nat) (j : Fin 16) : (s.loadRegsFrom a n).keyDown j = s.keyDown j := rfl
@[simp] theorem loadRegsFrom_cell (a n : Nat) (p : Pixel) : (s.loadRegsFrom a n).cell p = s.cell p := rfl

/-! ### resetInPlace -/

@[simp] theorem resetInPlace_params : (s.resetInPlace).params = s.params := rfl
@[simp] theorem resetInPlace_mem : (s.resetInPlace).mem = [] := rfl
@[simp] theorem resetInPlace_v : (s.resetInPlace).v = Vector.replicate 16 0x00#8 := rfl
@[simp] theorem resetInPlace_i : (s.resetInPlace).i = 0x0000#16 := rfl
@[simp] theorem resetInPlace_pc : (s.resetInPlace).pc = 0x0200#16 := rfl
@[simp] theorem resetInPlace_stack : (s.resetInPlace).stack = Vector.replicate 16 0x0000#16 := rfl
@[simp] theorem resetInPlace_sp : (s.resetInPlace).sp = 0 := rfl
@[simp] theorem resetInPlace_dt : (s.resetInPlace).dt = 0x00#8 := rfl
@[simp] theorem resetInPlace_st : (s.resetInPlace).st = 0x00#8 := rfl
@[simp] theorem resetInPlace_key : (s.resetInPlace).key = Vector.replicate 16 false := rfl
@[simp] theorem resetInPlace_fb : (s.resetInPlace).fb = Framebuffer.blank := rfl
@[simp] theorem resetInPlace_status : (s.resetInPlace).status = .running := rfl
@[simp] theorem resetInPlace_randomIn : (s.resetInPlace).randomIn = s.randomIn := rfl
@[simp] theorem resetInPlace_draws : (s.resetInPlace).draws = s.draws := rfl

/-! ### takeFault -/

@[simp] theorem takeFault_params (k : FaultKind) (o : Option Word) (n : Option Nat) : (takeFault k o n s).params = s.params := rfl
@[simp] theorem takeFault_mem (k : FaultKind) (o : Option Word) (n : Option Nat) : (takeFault k o n s).mem = s.mem := rfl
@[simp] theorem takeFault_v (k : FaultKind) (o : Option Word) (n : Option Nat) : (takeFault k o n s).v = s.v := rfl
@[simp] theorem takeFault_i (k : FaultKind) (o : Option Word) (n : Option Nat) : (takeFault k o n s).i = s.i := rfl
@[simp] theorem takeFault_pc (k : FaultKind) (o : Option Word) (n : Option Nat) : (takeFault k o n s).pc = s.pc := rfl
@[simp] theorem takeFault_stack (k : FaultKind) (o : Option Word) (n : Option Nat) : (takeFault k o n s).stack = s.stack := rfl
@[simp] theorem takeFault_sp (k : FaultKind) (o : Option Word) (n : Option Nat) : (takeFault k o n s).sp = s.sp := rfl
@[simp] theorem takeFault_dt (k : FaultKind) (o : Option Word) (n : Option Nat) : (takeFault k o n s).dt = s.dt := rfl
@[simp] theorem takeFault_st (k : FaultKind) (o : Option Word) (n : Option Nat) : (takeFault k o n s).st = s.st := rfl
@[simp] theorem takeFault_key (k : FaultKind) (o : Option Word) (n : Option Nat) : (takeFault k o n s).key = s.key := rfl
@[simp] theorem takeFault_fb (k : FaultKind) (o : Option Word) (n : Option Nat) : (takeFault k o n s).fb = s.fb := rfl
@[simp] theorem takeFault_status (k : FaultKind) (o : Option Word) (n : Option Nat) : (takeFault k o n s).status = .faulted ⟨k, k.code, s.pc, o, n⟩ := rfl
@[simp] theorem takeFault_randomIn (k : FaultKind) (o : Option Word) (n : Option Nat) : (takeFault k o n s).randomIn = s.randomIn := rfl
@[simp] theorem takeFault_draws (k : FaultKind) (o : Option Word) (n : Option Nat) : (takeFault k o n s).draws = s.draws := rfl
@[simp] theorem takeFault_reg (k : FaultKind) (o : Option Word) (n : Option Nat) (r : Reg) : (takeFault k o n s).reg r = s.reg r := rfl
@[simp] theorem takeFault_readByte (k : FaultKind) (o : Option Word) (n : Option Nat) (c : Nat) : (takeFault k o n s).readByte c = s.readByte c := rfl
@[simp] theorem takeFault_keyDown (k : FaultKind) (o : Option Word) (n : Option Nat) (j : Fin 16) : (takeFault k o n s).keyDown j = s.keyDown j := rfl
@[simp] theorem takeFault_cell (k : FaultKind) (o : Option Word) (n : Option Nat) (p : Pixel) : (takeFault k o n s).cell p = s.cell p := rfl

/-! ### skipIf -/

@[simp] theorem skipIf_params (c : Bool) : (s.skipIf c).params = s.params := by cases c <;> rfl
@[simp] theorem skipIf_mem (c : Bool) : (s.skipIf c).mem = s.mem := by cases c <;> rfl
@[simp] theorem skipIf_v (c : Bool) : (s.skipIf c).v = s.v := by cases c <;> rfl
@[simp] theorem skipIf_i (c : Bool) : (s.skipIf c).i = s.i := by cases c <;> rfl
@[simp] theorem skipIf_pc (c : Bool) : (s.skipIf c).pc = if c then s.pc + 2#16 else s.pc := by cases c <;> rfl
@[simp] theorem skipIf_stack (c : Bool) : (s.skipIf c).stack = s.stack := by cases c <;> rfl
@[simp] theorem skipIf_sp (c : Bool) : (s.skipIf c).sp = s.sp := by cases c <;> rfl
@[simp] theorem skipIf_dt (c : Bool) : (s.skipIf c).dt = s.dt := by cases c <;> rfl
@[simp] theorem skipIf_st (c : Bool) : (s.skipIf c).st = s.st := by cases c <;> rfl
@[simp] theorem skipIf_key (c : Bool) : (s.skipIf c).key = s.key := by cases c <;> rfl
@[simp] theorem skipIf_fb (c : Bool) : (s.skipIf c).fb = s.fb := by cases c <;> rfl
@[simp] theorem skipIf_status (c : Bool) : (s.skipIf c).status = s.status := by cases c <;> rfl
@[simp] theorem skipIf_randomIn (c : Bool) : (s.skipIf c).randomIn = s.randomIn := by cases c <;> rfl
@[simp] theorem skipIf_draws (c : Bool) : (s.skipIf c).draws = s.draws := by cases c <;> rfl
@[simp] theorem skipIf_reg (c : Bool) (r : Reg) : (s.skipIf c).reg r = s.reg r := by cases c <;> rfl
@[simp] theorem skipIf_readByte (c : Bool) (c' : Nat) : (s.skipIf c).readByte c' = s.readByte c' := by cases c <;> rfl
@[simp] theorem skipIf_keyDown (c : Bool) (j : Fin 16) : (s.skipIf c).keyDown j = s.keyDown j := by cases c <;> rfl
@[simp] theorem skipIf_cell (c : Bool) (p : Pixel) : (s.skipIf c).cell p = s.cell p := by cases c <;> rfl

/-! ### writeByte -/

@[simp] theorem writeByte_params (a : Nat) (b : Byte) : (s.writeByte a b).params = s.params := by unfold State.writeByte; split <;> rfl
@[simp] theorem writeByte_v (a : Nat) (b : Byte) : (s.writeByte a b).v = s.v := by unfold State.writeByte; split <;> rfl
@[simp] theorem writeByte_i (a : Nat) (b : Byte) : (s.writeByte a b).i = s.i := by unfold State.writeByte; split <;> rfl
@[simp] theorem writeByte_pc (a : Nat) (b : Byte) : (s.writeByte a b).pc = s.pc := by unfold State.writeByte; split <;> rfl
@[simp] theorem writeByte_stack (a : Nat) (b : Byte) : (s.writeByte a b).stack = s.stack := by unfold State.writeByte; split <;> rfl
@[simp] theorem writeByte_sp (a : Nat) (b : Byte) : (s.writeByte a b).sp = s.sp := by unfold State.writeByte; split <;> rfl
@[simp] theorem writeByte_dt (a : Nat) (b : Byte) : (s.writeByte a b).dt = s.dt := by unfold State.writeByte; split <;> rfl
@[simp] theorem writeByte_st (a : Nat) (b : Byte) : (s.writeByte a b).st = s.st := by unfold State.writeByte; split <;> rfl
@[simp] theorem writeByte_key (a : Nat) (b : Byte) : (s.writeByte a b).key = s.key := by unfold State.writeByte; split <;> rfl
@[simp] theorem writeByte_fb (a : Nat) (b : Byte) : (s.writeByte a b).fb = s.fb := by unfold State.writeByte; split <;> rfl
@[simp] theorem writeByte_status (a : Nat) (b : Byte) : (s.writeByte a b).status = s.status := by unfold State.writeByte; split <;> rfl
@[simp] theorem writeByte_randomIn (a : Nat) (b : Byte) : (s.writeByte a b).randomIn = s.randomIn := by unfold State.writeByte; split <;> rfl
@[simp] theorem writeByte_draws (a : Nat) (b : Byte) : (s.writeByte a b).draws = s.draws := by unfold State.writeByte; split <;> rfl
@[simp] theorem writeByte_reg (a : Nat) (b : Byte) (r : Reg) : (s.writeByte a b).reg r = s.reg r := by unfold State.writeByte; split <;> rfl
@[simp] theorem writeByte_keyDown (a : Nat) (b : Byte) (j : Fin 16) : (s.writeByte a b).keyDown j = s.keyDown j := by unfold State.writeByte; split <;> rfl
@[simp] theorem writeByte_cell (a : Nat) (b : Byte) (p : Pixel) : (s.writeByte a b).cell p = s.cell p := by unfold State.writeByte; split <;> rfl

/-! ### setFlag -/

@[simp] theorem setFlag_params (c : Bool) : (s.setFlag c).params = s.params := rfl
@[simp] theorem setFlag_mem (c : Bool) : (s.setFlag c).mem = s.mem := rfl
@[simp] theorem setFlag_v (c : Bool) : (s.setFlag c).v = s.v.set flagReg (flagByte c) := rfl
@[simp] theorem setFlag_i (c : Bool) : (s.setFlag c).i = s.i := rfl
@[simp] theorem setFlag_pc (c : Bool) : (s.setFlag c).pc = s.pc := rfl
@[simp] theorem setFlag_stack (c : Bool) : (s.setFlag c).stack = s.stack := rfl
@[simp] theorem setFlag_sp (c : Bool) : (s.setFlag c).sp = s.sp := rfl
@[simp] theorem setFlag_dt (c : Bool) : (s.setFlag c).dt = s.dt := rfl
@[simp] theorem setFlag_st (c : Bool) : (s.setFlag c).st = s.st := rfl
@[simp] theorem setFlag_key (c : Bool) : (s.setFlag c).key = s.key := rfl
@[simp] theorem setFlag_fb (c : Bool) : (s.setFlag c).fb = s.fb := rfl
@[simp] theorem setFlag_status (c : Bool) : (s.setFlag c).status = s.status := rfl
@[simp] theorem setFlag_randomIn (c : Bool) : (s.setFlag c).randomIn = s.randomIn := rfl
@[simp] theorem setFlag_draws (c : Bool) : (s.setFlag c).draws = s.draws := rfl
@[simp] theorem setFlag_readByte (c : Bool) (c' : Nat) : (s.setFlag c).readByte c' = s.readByte c' := rfl
@[simp] theorem setFlag_keyDown (c : Bool) (j : Fin 16) : (s.setFlag c).keyDown j = s.keyDown j := rfl
@[simp] theorem setFlag_cell (c : Bool) (p : Pixel) : (s.setFlag c).cell p = s.cell p := rfl

/-! ### setResultAndFlag -/

@[simp] theorem setResultAndFlag_params (x : Reg) (b : Byte) (c : Bool) : (s.setResultAndFlag x b c).params = s.params := rfl
@[simp] theorem setResultAndFlag_mem (x : Reg) (b : Byte) (c : Bool) : (s.setResultAndFlag x b c).mem = s.mem := rfl
@[simp] theorem setResultAndFlag_v (x : Reg) (b : Byte) (c : Bool) : (s.setResultAndFlag x b c).v = (s.v.set x b).set flagReg (flagByte c) := rfl
@[simp] theorem setResultAndFlag_i (x : Reg) (b : Byte) (c : Bool) : (s.setResultAndFlag x b c).i = s.i := rfl
@[simp] theorem setResultAndFlag_pc (x : Reg) (b : Byte) (c : Bool) : (s.setResultAndFlag x b c).pc = s.pc := rfl
@[simp] theorem setResultAndFlag_stack (x : Reg) (b : Byte) (c : Bool) : (s.setResultAndFlag x b c).stack = s.stack := rfl
@[simp] theorem setResultAndFlag_sp (x : Reg) (b : Byte) (c : Bool) : (s.setResultAndFlag x b c).sp = s.sp := rfl
@[simp] theorem setResultAndFlag_dt (x : Reg) (b : Byte) (c : Bool) : (s.setResultAndFlag x b c).dt = s.dt := rfl
@[simp] theorem setResultAndFlag_st (x : Reg) (b : Byte) (c : Bool) : (s.setResultAndFlag x b c).st = s.st := rfl
@[simp] theorem setResultAndFlag_key (x : Reg) (b : Byte) (c : Bool) : (s.setResultAndFlag x b c).key = s.key := rfl
@[simp] theorem setResultAndFlag_fb (x : Reg) (b : Byte) (c : Bool) : (s.setResultAndFlag x b c).fb = s.fb := rfl
@[simp] theorem setResultAndFlag_status (x : Reg) (b : Byte) (c : Bool) : (s.setResultAndFlag x b c).status = s.status := rfl
@[simp] theorem setResultAndFlag_randomIn (x : Reg) (b : Byte) (c : Bool) : (s.setResultAndFlag x b c).randomIn = s.randomIn := rfl
@[simp] theorem setResultAndFlag_draws (x : Reg) (b : Byte) (c : Bool) : (s.setResultAndFlag x b c).draws = s.draws := rfl
@[simp] theorem setResultAndFlag_readByte (x : Reg) (b : Byte) (c : Bool) (c' : Nat) : (s.setResultAndFlag x b c).readByte c' = s.readByte c' := rfl
@[simp] theorem setResultAndFlag_keyDown (x : Reg) (b : Byte) (c : Bool) (j : Fin 16) : (s.setResultAndFlag x b c).keyDown j = s.keyDown j := rfl
@[simp] theorem setResultAndFlag_cell (x : Reg) (b : Byte) (c : Bool) (p : Pixel) : (s.setResultAndFlag x b c).cell p = s.cell p := rfl

/-! ### writeBytes -/

@[simp] theorem writeBytes_params (a : Nat) (bs : List Byte) : (s.writeBytes a bs).params = s.params := by
  induction bs generalizing s a with
  | nil => rfl
  | cons b rest ih => rw [State.writeBytes, ih, writeByte_params]
@[simp] theorem writeBytes_v (a : Nat) (bs : List Byte) : (s.writeBytes a bs).v = s.v := by
  induction bs generalizing s a with
  | nil => rfl
  | cons b rest ih => rw [State.writeBytes, ih, writeByte_v]
@[simp] theorem writeBytes_i (a : Nat) (bs : List Byte) : (s.writeBytes a bs).i = s.i := by
  induction bs generalizing s a with
  | nil => rfl
  | cons b rest ih => rw [State.writeBytes, ih, writeByte_i]
@[simp] theorem writeBytes_pc (a : Nat) (bs : List Byte) : (s.writeBytes a bs).pc = s.pc := by
  induction bs generalizing s a with
  | nil => rfl
  | cons b rest ih => rw [State.writeBytes, ih, writeByte_pc]
@[simp] theorem writeBytes_stack (a : Nat) (bs : List Byte) : (s.writeBytes a bs).stack = s.stack := by
  induction bs generalizing s a with
  | nil => rfl
  | cons b rest ih => rw [State.writeBytes, ih, writeByte_stack]
@[simp] theorem writeBytes_sp (a : Nat) (bs : List Byte) : (s.writeBytes a bs).sp = s.sp := by
  induction bs generalizing s a with
  | nil => rfl
  | cons b rest ih => rw [State.writeBytes, ih, writeByte_sp]
@[simp] theorem writeBytes_dt (a : Nat) (bs : List Byte) : (s.writeBytes a bs).dt = s.dt := by
  induction bs generalizing s a with
  | nil => rfl
  | cons b rest ih => rw [State.writeBytes, ih, writeByte_dt]
@[simp] theorem writeBytes_st (a : Nat) (bs : List Byte) : (s.writeBytes a bs).st = s.st := by
  induction bs generalizing s a with
  | nil => rfl
  | cons b rest ih => rw [State.writeBytes, ih, writeByte_st]
@[simp] theorem writeBytes_key (a : Nat) (bs : List Byte) : (s.writeBytes a bs).key = s.key := by
  induction bs generalizing s a with
  | nil => rfl
  | cons b rest ih => rw [State.writeBytes, ih, writeByte_key]
@[simp] theorem writeBytes_fb (a : Nat) (bs : List Byte) : (s.writeBytes a bs).fb = s.fb := by
  induction bs generalizing s a with
  | nil => rfl
  | cons b rest ih => rw [State.writeBytes, ih, writeByte_fb]
@[simp] theorem writeBytes_status (a : Nat) (bs : List Byte) : (s.writeBytes a bs).status = s.status := by
  induction bs generalizing s a with
  | nil => rfl
  | cons b rest ih => rw [State.writeBytes, ih, writeByte_status]
@[simp] theorem writeBytes_randomIn (a : Nat) (bs : List Byte) : (s.writeBytes a bs).randomIn = s.randomIn := by
  induction bs generalizing s a with
  | nil => rfl
  | cons b rest ih => rw [State.writeBytes, ih, writeByte_randomIn]
@[simp] theorem writeBytes_draws (a : Nat) (bs : List Byte) : (s.writeBytes a bs).draws = s.draws := by
  induction bs generalizing s a with
  | nil => rfl
  | cons b rest ih => rw [State.writeBytes, ih, writeByte_draws]
@[simp] theorem writeBytes_reg (a : Nat) (bs : List Byte) (r : Reg) : (s.writeBytes a bs).reg r = s.reg r := by
  simp only [State.reg, writeBytes_v]
@[simp] theorem writeBytes_keyDown (a : Nat) (bs : List Byte) (j : Fin 16) : (s.writeBytes a bs).keyDown j = s.keyDown j := by
  simp only [State.keyDown, writeBytes_key]
@[simp] theorem writeBytes_cell (a : Nat) (bs : List Byte) (p : Pixel) : (s.writeBytes a bs).cell p = s.cell p := by
  simp only [State.cell, writeBytes_fb]

end Sys2Proof.Machine
end

