-- ==== Sys2Proof/Laws/Memory.lean ====
section
/-! SUPPORT. The laws of memory: a read after a write, at the address written and elsewhere, for any memory; the
canonical form is kept by every write. -/

namespace Sys2Proof.Machine

variable (d : Byte) (font : Vector Byte 80)

/-! ### Reading after erasing, inserting and writing -/

theorem Memory.read_erase (a c : Nat) (m : Memory) :
    Memory.read d c (Memory.erase a m) = if c = a then d else Memory.read d c m := by
  induction m with
  | nil => simp [Memory.erase, Memory.read]
  | cons e rest ih =>
    obtain ⟨k, b⟩ := e
    by_cases hk : k = a
    · subst hk
      by_cases hc : c = k
      · subst hc; simp only [if_true] at ih; simp only [Memory.erase, if_true, ih]
      · simp [Memory.erase, Memory.read, ih, hc, Ne.symm hc]
    · by_cases hc : c = a
      · subst hc; simp only [if_true] at ih; simp [Memory.erase, Memory.read, hk, ih]
      · simp [Memory.erase, Memory.read, hk, ih, hc]

theorem Memory.read_insert (a c : Nat) (b : Byte) (m : Memory) (hm : ∀ e ∈ m, e.1 ≠ a) :
    Memory.read d c (Memory.insert a b m) = if c = a then b else Memory.read d c m := by
  induction m with
  | nil => simp [Memory.insert, Memory.read, eq_comm]
  | cons e rest ih =>
    obtain ⟨k, v⟩ := e
    have hk : k ≠ a := hm (k, v) (by simp)
    have ih := ih (fun e he => hm e (by simp [he]))
    by_cases ha : a < k
    · simp [Memory.insert, Memory.read, ha, eq_comm]
    · by_cases hc : c = a
      · subst hc; simp [Memory.insert, Memory.read, ha, ih, hk]
      · simp [Memory.insert, Memory.read, ha, ih, hc]

theorem Memory.erase_ne (a : Nat) (m : Memory) : ∀ e ∈ Memory.erase a m, e.1 ≠ a := by
  induction m with
  | nil => simp [Memory.erase]
  | cons e rest ih =>
    obtain ⟨k, b⟩ := e
    by_cases hk : k = a
    · simpa [Memory.erase, hk] using ih
    · intro e he
      simp only [Memory.erase, hk, if_false, List.mem_cons] at he
      rcases he with rfl | he
      · exact hk
      · exact ih e he

/-- A read after a write, in any memory. -/
theorem Memory.read_write (a c : Nat) (b : Byte) (m : Memory) :
    Memory.read d c (Memory.write d a b m) = if c = a then b else Memory.read d c m := by
  unfold Memory.write
  split
  · next h => simp [Memory.read_erase, h]
  · rw [Memory.read_insert d a c b _ (Memory.erase_ne a m), Memory.read_erase]
    split <;> rfl

/-! ### The canonical form -/

theorem Memory.wfFrom_mono {low low' : Nat} (h : low ≤ low') {m : Memory}
    (hm : Memory.wfFrom font low' m = true) : Memory.wfFrom font low m = true := by
  cases m with
  | nil => rfl
  | cons e rest =>
    obtain ⟨k, b⟩ := e
    simp only [Memory.wfFrom, Bool.and_eq_true, decide_eq_true_eq] at hm ⊢
    exact ⟨⟨⟨h.trans hm.1.1.1, hm.1.1.2⟩, hm.1.2⟩, hm.2⟩

theorem Memory.wfFrom_erase (a : Nat) {low : Nat} {m : Memory} (hm : Memory.wfFrom font low m = true) :
    Memory.wfFrom font low (Memory.erase a m) = true := by
  induction m generalizing low with
  | nil => exact hm
  | cons e rest ih =>
    obtain ⟨k, b⟩ := e
    simp only [Memory.wfFrom, Bool.and_eq_true, decide_eq_true_eq] at hm
    by_cases hk : k = a
    · simp only [Memory.erase, hk, if_true]
      exact Memory.wfFrom_mono font (by omega) (ih hm.2)
    · simp only [Memory.erase, hk, if_false, Memory.wfFrom, Bool.and_eq_true, decide_eq_true_eq]
      exact ⟨hm.1, ih hm.2⟩

theorem Memory.wfFrom_insert {a : Nat} {b : Byte} (ha : a ≤ lastAddress) (hb : b ≠ unlistedByte font a)
    {low : Nat} (hl : low ≤ a) {m : Memory} (hm : Memory.wfFrom font low m = true) (hne : ∀ e ∈ m, e.1 ≠ a) :
    Memory.wfFrom font low (Memory.insert a b m) = true := by
  induction m generalizing low with
  | nil => simp [Memory.insert, Memory.wfFrom, hl, ha, hb]
  | cons e rest ih =>
    obtain ⟨k, c⟩ := e
    simp only [Memory.wfFrom, Bool.and_eq_true, decide_eq_true_eq] at hm
    have hk : k ≠ a := hne (k, c) (by simp)
    by_cases hak : a < k
    · simp only [Memory.insert, hak, if_true, Memory.wfFrom, Bool.and_eq_true, decide_eq_true_eq]
      exact ⟨⟨⟨hl, ha⟩, hb⟩, ⟨⟨⟨hak, hm.1.1.2⟩, hm.1.2⟩, hm.2⟩⟩
    · simp only [Memory.insert, hak, if_false, Memory.wfFrom, Bool.and_eq_true, decide_eq_true_eq]
      exact ⟨hm.1, ih (by omega) hm.2 (fun e he => hne e (by simp [he]))⟩

/-- A write in memory keeps the canonical form. -/
theorem Memory.wf_write {a : Nat} (ha : a ≤ lastAddress) (b : Byte) {m : Memory} (hm : Memory.wf font m = true) :
    Memory.wf font (Memory.write (unlistedByte font a) a b m) = true := by
  unfold Memory.write Memory.wf at *
  split
  · exact Memory.wfFrom_erase font a hm
  · next hb =>
    exact Memory.wfFrom_insert font ha hb (Nat.zero_le a) (Memory.wfFrom_erase font a hm) (Memory.erase_ne a m)

/-! ### The same of a state -/

/-- The byte written is read, and every other byte is as before (20_memory R55). -/
theorem readByte_writeByte (s : State) (a c : Nat) (b : Byte) :
    (s.writeByte a b).readByte c = if c = a ∧ a ≤ lastAddress then b else s.readByte c := by
  unfold State.writeByte
  by_cases ha : a ≤ lastAddress
  · by_cases hc : c = a
    · subst hc; simp [ha, State.readByte, Memory.read_write]
    · simp only [ha, if_true, hc, false_and, if_false, State.readByte, Memory.write]
      split
      · rw [Memory.read_erase, if_neg hc]
      · rw [Memory.read_insert _ _ _ _ _ (Memory.erase_ne a _), if_neg hc, Memory.read_erase, if_neg hc]
  · simp [ha]

/-- Every byte after a block write that lies in memory: the block's own bytes inside it, the old ones elsewhere. -/
theorem readByte_writeBytes (s : State) (a : Nat) (bs : List Byte) (h : a + bs.length ≤ lastAddress + 1) (c : Nat) :
    (s.writeBytes a bs).readByte c =
      if h : a ≤ c ∧ c < a + bs.length then bs[c - a]'(by omega) else s.readByte c := by
  induction bs generalizing s a with
  | nil => simp [State.writeBytes]
  | cons b rest ih =>
    simp only [List.length_cons] at h
    have ha : a ≤ lastAddress := by omega
    rw [State.writeBytes, ih (s.writeByte a b) (a + 1) (by omega), readByte_writeByte]
    by_cases h1 : a + 1 ≤ c ∧ c < a + 1 + rest.length
    · have h2 : a ≤ c ∧ c < a + (b :: rest).length := by simp only [List.length_cons]; omega
      rw [dif_pos h1, dif_pos h2]
      have : c - a = (c - (a + 1)) + 1 := by omega
      simp [this]
    · rw [dif_neg h1]
      by_cases hc : c = a
      · subst hc; simp [ha]
      · have h2 : ¬ (a ≤ c ∧ c < a + (b :: rest).length) := by simp only [List.length_cons]; omega
        rw [dif_neg h2, if_neg (by simp [hc])]

theorem writeByte_memWf (s : State) (a : Nat) (b : Byte) (h : Memory.wf s.params.font s.mem = true) :
    Memory.wf (s.writeByte a b).params.font (s.writeByte a b).mem = true := by
  unfold State.writeByte
  split
  · next ha => exact Memory.wf_write s.params.font ha b h
  · exact h

/-- A block write keeps the canonical form, wherever it lies. -/
theorem writeBytes_memWf (s : State) (a : Nat) (bs : List Byte) (h : Memory.wf s.params.font s.mem = true) :
    Memory.wf (s.writeBytes a bs).params.font (s.writeBytes a bs).mem = true := by
  induction bs generalizing s a with
  | nil => exact h
  | cons b rest ih => exact ih (s.writeByte a b) (a + 1) (writeByte_memWf s a b h)

/-! ### Reading a block -/

@[simp] theorem readBytes_length (s : State) (a n : Nat) : (s.readBytes a n).length = n := by
  induction n generalizing a with
  | zero => rfl
  | succ n ih => simp [State.readBytes, ih]

@[simp] theorem readBytes_getElem (s : State) (a n k : Nat) (h : k < (s.readBytes a n).length) :
    (s.readBytes a n)[k] = s.readByte (a + k) := by
  induction n generalizing a k with
  | zero => simp at h
  | succ n ih =>
    cases k with
    | zero => rfl
    | succ k =>
      simp only [State.readBytes, List.getElem_cons_succ]
      rw [ih (a + 1) k (by simpa [State.readBytes] using h)]
      congr 1; omega

/-- A block read sees memory only: two states that read alike give the same block. -/
theorem readBytes_congr {s t : State} (h : ∀ a, t.readByte a = s.readByte a) (a n : Nat) :
    t.readBytes a n = s.readBytes a n := by
  induction n generalizing a with
  | zero => rfl
  | succ n ih => simp [State.readBytes, h, ih]

end Sys2Proof.Machine
end

