-- ==== Sys2Proof/Laws/Registers.lean ====
section
/-! SUPPORT. What a register reads after each update of the registers, and what the flag values are in numbers. -/

namespace Sys2Proof.Machine

variable (s : State)

/-- V[r] after V[x] <- b. -/
@[simp] theorem reg_setReg (x : Reg) (b : Byte) (r : Reg) : (s.setReg x b).reg r = if r = x then b else s.reg r := by
  simp only [State.reg, State.setReg, Vector.get_eq_getElem, Vector.getElem_set, Fin.val_inj, eq_comm (a := x)]

@[simp] theorem reg_setFlag (c : Bool) (r : Reg) :
    (s.setFlag c).reg r = if r = flagReg then flagByte c else s.reg r := reg_setReg s flagReg (flagByte c) r

/-- V[r] after a result and a flag: the flag is written last (41_register_alu R132). -/
@[simp] theorem reg_setResultAndFlag (x : Reg) (b : Byte) (c : Bool) (r : Reg) :
    (s.setResultAndFlag x b c).reg r = if r = flagReg then flagByte c else if r = x then b else s.reg r := by
  simp only [State.setResultAndFlag, reg_setFlag, reg_setReg]

theorem loadRegs_get (read : Nat → Byte) (v : Vector Byte 16) (n : Nat) (r : Reg) :
    (loadRegs read v n).get r = if r.val < n then read r.val else v.get r := by
  induction n with
  | zero => simp [loadRegs]
  | succ n ih =>
    simp only [Vector.get_eq_getElem] at ih ⊢
    rw [loadRegs, Vector.getElem_setIfInBounds]
    by_cases h : n = r.val
    · simp [h]
    · rw [if_neg h, ih]
      by_cases h' : r.val < n
      · rw [if_pos h', if_pos (by omega)]
      · rw [if_neg h', if_neg (by omega)]

/-- V[r] after a block load of n registers (42_addressing R155). -/
@[simp] theorem reg_loadRegsFrom (a n : Nat) (r : Reg) :
    (s.loadRegsFrom a n).reg r = if r.val < n then s.readByte (a + r.val) else s.reg r :=
  loadRegs_get _ s.v n r

/-- The stored block of Fx55 holds V[k] at place k. -/
theorem firstRegs_getElem (x : Reg) (k : Nat) (h : k < (s.firstRegs x).length) (hk : k < 16) :
    (s.firstRegs x)[k] = s.reg ⟨k, hk⟩ := by
  simp [State.firstRegs, State.reg, Vector.get_eq_getElem]

@[simp] theorem firstRegs_length (x : Reg) : (s.firstRegs x).length = x.val + 1 := by
  simp only [State.firstRegs, List.length_take, Vector.length_toList]
  have := x.isLt
  omega

/-! ### Flags (10_state R41) -/

@[simp] theorem flagByte_true : flagByte true = 0x01#8 := rfl

@[simp] theorem flagByte_false : flagByte false = 0x00#8 := rfl

theorem carry_iff (a b : Byte) : carry a b = true ↔ a.toNat + b.toNat > 255 := decide_eq_true_iff

theorem noBorrow_iff (a b : Byte) : noBorrow a b = true ↔ a.toNat ≥ b.toNat := decide_eq_true_iff

end Sys2Proof.Machine
end

