-- ==== Sys2Proof/Laws/Ops.lean ====
section
/-! SUPPORT. What each remaining shared operation can do, one lemma per answer: push and pop, the range check, the key
index, the key scan, zero extension, the BCD digits. -/

namespace Sys2Proof.Machine

variable (s : State)

/-! ### Stack (10_state R25) -/

theorem push?_full (w : Word) (h : s.sp = 16) : s.push? w = none := by
  simp [State.push?, h]

theorem push?_some (w : Word) (h : s.sp.val < 16) :
    s.push? w = some { s with stack := s.stack.set s.sp.val w h, sp := ⟨s.sp.val + 1, by omega⟩ } := by
  simp [State.push?, h]

theorem pop?_empty (h : s.sp = 0) : s.pop? = none := by
  simp [State.pop?, h]

theorem pop?_some (h : s.sp.val ≠ 0) :
    s.pop? = some (s.stack[s.sp.val - 1]'(by omega), { s with sp := ⟨s.sp.val - 1, by omega⟩ }) := by
  simp only [State.pop?, dif_neg h]

/-! ### The range check (20_memory R54) -/

/-- No fault exactly when every byte of the access is in memory. -/
theorem dataFault?_none_iff (n : Nat) : s.dataFault? n = none ↔ (0 < n → s.i.toNat + (n - 1) ≤ lastAddress) := by
  unfold State.dataFault?
  split
  · next h => simp only [reduceCtorEq, false_iff]; omega
  · next h => simp only [true_iff]; intro hn; omega

theorem dataFault?_some {n : Nat} (hn : 0 < n) (h : s.i.toNat + (n - 1) > lastAddress) :
    s.dataFault? n = some (max s.i.toNat 0x1000) := by
  simp only [State.dataFault?, hn, h, and_self, if_true]

/-! ### Keys (44_input) -/

theorem keyIndex?_some {b : Byte} (h : b.toNat < 16) : keyIndex? b = some ⟨b.toNat, h⟩ := by
  simp [keyIndex?, h]

theorem keyIndex?_none {b : Byte} (h : 16 ≤ b.toNat) : keyIndex? b = none := by
  simp [keyIndex?]; omega

@[simp] theorem keyDown_setKeyDown (k j : Fin 16) (b : Bool) :
    (s.setKeyDown k b).keyDown j = if j = k then b else s.keyDown j := by
  simp only [State.keyDown, State.setKeyDown, Vector.get_eq_getElem, Vector.getElem_set, Fin.val_inj, eq_comm (a := k)]

/-- The scan finds the lowest pressed key (R182). -/
theorem firstKey?_some_iff (k : Nat) :
    s.firstKey? = some k ↔ ∃ h : k < 16, s.keyDown ⟨k, h⟩ = true ∧ ∀ j : Fin 16, j.val < k → s.keyDown j = false := by
  simp only [State.firstKey?, List.findIdx?_eq_some_iff_getElem, State.keyDown, Vector.get_eq_getElem,
    Vector.length_toList, Vector.getElem_toList, Bool.not_eq_true]
  constructor
  · rintro ⟨h, h1, h2⟩
    exact ⟨h, h1, fun j hj => h2 j.val hj⟩
  · rintro ⟨h, h1, h2⟩
    exact ⟨h, h1, fun j hj => h2 ⟨j, by omega⟩ hj⟩

theorem firstKey?_none_iff : s.firstKey? = none ↔ ∀ k : Fin 16, s.keyDown k = false := by
  simp only [State.firstKey?, List.findIdx?_eq_none_iff, State.keyDown, Vector.get_eq_getElem]
  constructor
  · intro h k
    exact h _ (by simp)
  · intro h b hb
    obtain ⟨k, hk, rfl⟩ := List.mem_iff_getElem.mp hb
    simpa using h ⟨k, by simpa using hk⟩

/-! ### Operand values (30_encoding R74) -/

@[simp] theorem zextAddr_toNat (nnn : Addr12) : (zextAddr nnn).toNat = nnn.toNat := by
  have := nnn.isLt
  simp only [zextAddr, BitVec.toNat_setWidth]; omega

@[simp] theorem zextByte_toNat (b : Byte) : (zextByte b).toNat = b.toNat := by
  have := b.isLt
  simp only [zextByte, BitVec.toNat_setWidth]; omega

@[simp] theorem bcdDigits_length (b : Byte) : (bcdDigits b).length = 3 := rfl

/-- `pc - 2` undoes the advance (R182). -/
@[simp] theorem advance_back (w : Word) : w + 2#16 - 2#16 = w := by simp

end Sys2Proof.Machine
end

