-- ==== Sys2Proof/Laws/Display.lean ====
section
/-! SUPPORT. The sprite draw: which cells a sprite lists, that it lists none twice, and what flipping a list of cells
leaves in each cell and in the collision flag (45_display R190, R193). -/

namespace Sys2Proof.Machine

/-! ### One cell -/

theorem Framebuffer.cell_flip (fb : Framebuffer) (p q : Pixel) :
    Framebuffer.cell (Framebuffer.flip fb p) q = if q = p then !Framebuffer.cell fb p else Framebuffer.cell fb q := by
  obtain ⟨px, py⟩ := p
  obtain ⟨qx, qy⟩ := q
  simp only [Framebuffer.cell, Framebuffer.flip, Vector.get_eq_getElem, Vector.getElem_set, Pixel.mk.injEq]
  by_cases hy : qy = py
  · subst hy
    by_cases hx : qx = px
    · subst hx; simp
    · have : px.val ≠ qx.val := fun h => hx (Fin.ext h.symm)
      simp [hx, this]
  · have : py.val ≠ qy.val := fun h => hy (Fin.ext h.symm)
    simp [hy, this]

@[simp] theorem Framebuffer.cell_blank (p : Pixel) : Framebuffer.cell Framebuffer.blank p = false := by
  simp [Framebuffer.cell, Framebuffer.blank, Vector.get_eq_getElem]

@[simp] theorem cell_setFb (s : State) (fb : Framebuffer) (p : Pixel) :
    (s.setFb fb).cell p = Framebuffer.cell fb p := rfl

/-! ### A list of cells -/

/-- Every cell after a draw of distinct pixels: flipped where the pixel is listed, else as before. -/
theorem drawPixels_cell (ps : List Pixel) (hps : ps.Nodup) (fb : Framebuffer) (c : Bool) (q : Pixel) :
    Framebuffer.cell (drawPixels ps (fb, c)).1 q = (Framebuffer.cell fb q ^^ decide (q ∈ ps)) := by
  induction ps generalizing fb c with
  | nil => simp [drawPixels]
  | cons p rest ih =>
    obtain ⟨hp, hrest⟩ := List.nodup_cons.mp hps
    rw [drawPixels, ih hrest, Framebuffer.cell_flip]
    by_cases hq : q = p
    · subst hq; simp [hp]
    · simp [hq]

/-- The collision flag of a draw of distinct pixels: some listed cell was on before it. -/
theorem drawPixels_flag (ps : List Pixel) (hps : ps.Nodup) (fb : Framebuffer) (c : Bool) :
    (drawPixels ps (fb, c)).2 = (c || ps.any (fun p => Framebuffer.cell fb p)) := by
  induction ps generalizing fb c with
  | nil => simp [drawPixels]
  | cons p rest ih =>
    obtain ⟨hp, hrest⟩ := List.nodup_cons.mp hps
    rw [drawPixels, ih hrest, List.any_cons, Bool.or_assoc]
    have hsame : ∀ q ∈ rest, Framebuffer.cell (Framebuffer.flip fb p) q = Framebuffer.cell fb q := by
      intro q hq
      rw [Framebuffer.cell_flip, if_neg (fun h : q = p => hp (h ▸ hq))]
    rw [Bool.eq_iff_iff]
    simp only [Bool.or_eq_true, List.any_eq_true]
    refine or_congr_right (or_congr_right (exists_congr fun q => and_congr_right fun hq => ?_))
    rw [hsame q hq]

/-! ### The cells of a sprite -/

theorem mem_rowPixels (x0 y : Nat) (row : Byte) (p : Pixel) :
    p ∈ rowPixels x0 y row ↔ ∃ c, c < 8 ∧ row.getLsbD (7 - c) = true ∧ p.x = wrapX (x0 + c) ∧ p.y = wrapY y := by
  simp only [rowPixels, List.mem_filterMap, List.mem_range, Option.ite_none_right_eq_some, Option.some.injEq]
  constructor
  · rintro ⟨c, hc, hb, rfl⟩
    exact ⟨c, hc, hb, rfl, rfl⟩
  · rintro ⟨c, hc, hb, hx, hy⟩
    exact ⟨c, hc, hb, by rw [← hx, ← hy]⟩

/-- The cells a sprite covers: bit 7 - c of row r at column x0 + c and row y0 + r, each wrapped (R190, R191). -/
theorem mem_spritePixels (x0 y0 : Nat) (rows : List Byte) (p : Pixel) :
    p ∈ spritePixels x0 y0 rows ↔ ∃ r c, ∃ h : r < rows.length, c < 8 ∧ rows[r].getLsbD (7 - c) = true ∧
      p.x = wrapX (x0 + c) ∧ p.y = wrapY (y0 + r) := by
  induction rows generalizing y0 with
  | nil => simp [spritePixels]
  | cons row rest ih =>
    rw [spritePixels, List.mem_append, mem_rowPixels, ih]
    constructor
    · rintro (⟨c, hc, hb, hx, hy⟩ | ⟨r, c, hr, hc, hb, hx, hy⟩)
      · exact ⟨0, c, by simp, hc, hb, hx, hy⟩
      · exact ⟨r + 1, c, by simpa using hr, hc, hb, hx, by rw [hy]; congr 1; omega⟩
    · rintro ⟨r, c, hr, hc, hb, hx, hy⟩
      cases r with
      | zero => exact .inl ⟨c, hc, hb, hx, hy⟩
      | succ r => exact .inr ⟨r, c, by simpa using hr, hc, hb, hx, by rw [hy]; congr 1; omega⟩

theorem wrapX_inj {x0 c c' : Nat} (hc : c < 8) (hc' : c' < 8) (h : wrapX (x0 + c) = wrapX (x0 + c')) : c = c' := by
  have := congrArg Fin.val h
  simp only [wrapX] at this
  omega

theorem wrapY_inj {y r : Nat} (h0 : 0 < r) (h : r < 32) : wrapY y ≠ wrapY (y + r) := by
  intro he
  have := congrArg Fin.val he
  simp only [wrapY] at this
  omega

theorem rowPixels_nodup (x0 y : Nat) (row : Byte) : (rowPixels x0 y row).Nodup := by
  rw [rowPixels, List.Nodup, List.pairwise_filterMap]
  refine List.Pairwise.imp_of_mem ?_ (List.nodup_range (n := 8))
  intro c c' hc hc' hne p hp p' hp' he
  simp only [Option.ite_none_right_eq_some, Option.some.injEq] at hp hp'
  exact hne (wrapX_inj (x0 := x0) (List.mem_range.mp hc) (List.mem_range.mp hc')
    (congrArg Pixel.x (hp.2.trans (he.trans hp'.2.symm))))

/-- A sprite lists no cell twice: it is narrower than 64 columns and lower than 32 rows (R190). -/
theorem spritePixels_nodup (x0 y0 : Nat) (rows : List Byte) (h : rows.length ≤ 32) :
    (spritePixels x0 y0 rows).Nodup := by
  induction rows generalizing y0 with
  | nil => exact List.nodup_nil
  | cons row rest ih =>
    simp only [List.length_cons] at h
    rw [spritePixels, List.nodup_append]
    refine ⟨rowPixels_nodup x0 y0 row, ih (y0 + 1) (by omega), ?_⟩
    rintro p hp q hq rfl
    obtain ⟨_, _, _, _, hy⟩ := (mem_rowPixels ..).mp hp
    obtain ⟨r, _, hr, _, _, _, hy'⟩ := (mem_spritePixels ..).mp hq
    rw [hy, Nat.add_assoc] at hy'
    exact wrapY_inj (by omega) (by omega) hy'

end Sys2Proof.Machine
end

