-- ==== Sys2Proof/Laws/Step.lean ====
section
/-! SUPPORT. What a fetch can find, what a load can do, and what the other ports leave. -/

namespace Sys2Proof.Machine

variable (s : State)

/-! ### Fetch and decode (30_encoding R70, 60_exceptions R228) -/

theorem fetchWord?_some (h : s.pc.toNat ≤ lastFetch) :
    s.fetchWord? = some (wordOfBytes (s.readByte s.pc.toNat) (s.readByte (s.pc.toNat + 1))) := if_pos h

theorem fetchWord?_none (h : ¬ s.pc.toNat ≤ lastFetch) : s.fetchWord? = none := if_neg h

/-- Everything a step can find before an instruction runs. -/
theorem fetchDecode_cases :
    (∃ r, s.status = .faulted r ∧ fetchDecode s = .ends s) ∨
    (s.status = .running ∧ s.fetchWord? = none ∧
      fetchDecode s = .ends (takeFault .addressOutOfRange none (some s.fetchFaultAddress) s)) ∨
    (∃ op why, s.status = .running ∧ s.fetchWord? = some op ∧ decode s.params.bnnnMode op = .rejected why ∧
      fetchDecode s = .ends (takeFault .invalidInstruction (some op) none s)) ∨
    (∃ op i, s.status = .running ∧ s.fetchWord? = some op ∧ decode s.params.bnnnMode op = .instr i ∧
      fetchDecode s = .run i) := by
  cases hs : s.status with
  | faulted r => exact .inl ⟨r, rfl, by simp only [fetchDecode, hs]⟩
  | running =>
    cases hf : s.fetchWord? with
    | none => exact .inr (.inl ⟨rfl, rfl, by simp only [fetchDecode, hs, hf]⟩)
    | some op =>
      cases hd : decode s.params.bnnnMode op with
      | rejected why => exact .inr (.inr (.inl ⟨op, why, rfl, rfl, hd, by simp only [fetchDecode, hs, hf, hd]⟩))
      | instr i => exact .inr (.inr (.inr ⟨op, i, rfl, rfl, hd, by simp only [fetchDecode, hs, hf, hd]⟩))

/-! ### Ports (60_exceptions R240) -/

theorem load_fits {bytes : List Byte} (h : bytes.length ≤ romMax) :
    load bytes s = .next (s.writeBytes romBase bytes) := if_neg (by omega)

theorem load_oversized {bytes : List Byte} (h : bytes.length > romMax) :
    load bytes s = .fault (.oversizedRom bytes.length) := if_pos h

theorem countDown_toNat (b : Byte) : (countDown b).toNat = b.toNat - 1 := by
  unfold countDown
  split
  · next h => simp [h]
  · next h =>
    have : b.toNat ≠ 0 := fun h0 => h (BitVec.eq_of_toNat_eq h0)
    rw [BitVec.toNat_sub_of_le (by rw [BitVec.le_def]; simp; omega)]
    rfl

end Sys2Proof.Machine
end

