-- ==== Sys2Proof/Laws/Exec.lean ====
section
/-! SUPPORT. The words of Safety.lean over the operations: what `executes` finds, what a step can do, the range check
and `inMemory`, the cells of a sprite and `covers`, a fault taken and `faultedWith`. -/

namespace Sys2Proof.Machine

variable {s t : State}

/-! ### The step (30_encoding R70) -/

theorem executes_iff (s : State) (i : Instr) : s.executes i ↔ fetchDecode s = .run i := by
  constructor
  · rintro ⟨hr, hp, hd⟩
    simp only [fetchDecode, hr, fetchWord?_some s hp, hd]
  · intro h
    obtain ⟨r, -, h'⟩ | ⟨-, -, h'⟩ | ⟨op, why, -, -, -, h'⟩ | ⟨op, j, hr, hf, hd, h'⟩ := fetchDecode_cases s <;>
      rw [h] at h' <;> cases h'
    by_cases hp : s.pc.toNat ≤ lastFetch
    · rw [fetchWord?_some s hp] at hf
      cases hf
      exact ⟨hr, hp, hd⟩
    · rw [fetchWord?_none s hp] at hf
      cases hf

/-- Everything a step can do: keep a faulted state, take a fetch or a decode fault, or execute. -/
theorem step_cases (h : step s = .next t) :
    (∃ r, s.status = .faulted r ∧ t = s) ∨
    (s.status = .running ∧ ∃ kind opcode info, t = takeFault kind opcode info s) ∨
    (∃ i, s.executes i ∧ exec i s = .next t) := by
  obtain ⟨r, hr, h'⟩ | ⟨hr, -, h'⟩ | ⟨op, why, hr, -, -, h'⟩ | ⟨op, i, -, -, -, h'⟩ := fetchDecode_cases s <;>
    simp only [step, h'] at h
  · cases h
    exact .inl ⟨r, hr, rfl⟩
  · cases h
    exact .inr (.inl ⟨hr, _, _, _, rfl⟩)
  · cases h
    exact .inr (.inl ⟨hr, _, _, _, rfl⟩)
  · exact .inr (.inr ⟨i, (executes_iff s i).mpr h', h⟩)

/-! ### Taking a fault (60_exceptions R226) -/

theorem takeFault_eq_faultedWith (kind : FaultKind) (opcode : Option Word) (info : Option Nat) (s : State) :
    takeFault kind opcode info s = s.faultedWith kind kind.code opcode info := rfl

/-! ### The range check (20_memory R54) -/

theorem inMemory_zero (s : State) : s.inMemory 0 := fun k hk => absurd hk (Nat.not_lt_zero k)

theorem inMemory_le {n : Nat} (h : s.inMemory n) (hn : 0 < n) : s.i.toNat + n ≤ lastAddress + 1 := by
  have := h (n - 1) (by omega)
  simp only [lastAddress]
  omega

theorem dataFault?_of_inMemory {n : Nat} (h : s.inMemory n) : s.dataFault? n = none :=
  (dataFault?_none_iff s n).mpr fun hn => h (n - 1) (by omega)

theorem dataFault?_of_not_inMemory {n : Nat} (h : ¬ s.inMemory n) : s.dataFault? n = some (max s.i.toNat 0x1000) := by
  obtain ⟨k, hk⟩ := not_forall.mp h
  simp only [Classical.not_imp] at hk
  exact dataFault?_some s (by omega) (by simp only [lastAddress]; omega)

/-! ### The cells of a sprite (45_display R190, R191) -/

theorem sprite_nodup (s : State) (x y : Reg) (n : Fin 16) : (s.sprite x y n).Nodup :=
  spritePixels_nodup _ _ _ (by simp only [readBytes_length]; omega)

theorem mem_sprite (s : State) (x y : Reg) (n : Fin 16) (p : Pixel) : p ∈ s.sprite x y n ↔ s.covers x y n p := by
  simp only [State.sprite, mem_spritePixels, State.covers, readBytes_length, readBytes_getElem, Fin.ext_iff, wrapX,
    wrapY]
  constructor
  · rintro ⟨r, c, hr, hc, hb, hx, hy⟩
    exact ⟨r, c, hr, hc, hb, hx, hy⟩
  · rintro ⟨r, c, hr, hc, hb, hx, hy⟩
    exact ⟨r, c, hr, hc, hb, hx, hy⟩

end Sys2Proof.Machine
end

