-- ==== Sys2Proof/Laws/PerInstr.lean ====
section
/-! SUPPORT. Statements made for each instruction as syntax: the word of an instruction has the fixed bits the opcode
table gives its row (30_encoding R75, R78). -/

namespace Sys2Proof.Laws.RowBits

/-- The encoder agrees with the mask and the match of the instruction's row. -/
def Statement (i : Instr) : Prop := encode i &&& rowMask i = rowMatch i

/-! The row's mask keeps a format's fixed fields and clears its operands. -/

theorem formFA_masked (c : BitVec 4) (nnn : Addr12) : formFA c nnn &&& 0xF000#16 = c ++ 0x000#12 :=
  (BitVec.and_append (x₂ := 0xF#4) (y₂ := 0x000#12)).trans <| by
    rw [BitVec.and_zero, show (0xF#4) = BitVec.allOnes 4 from rfl, BitVec.and_allOnes]

theorem formFXK_class (c : BitVec 4) (x : Reg) (kk : Byte) : formFXK c x kk &&& 0xF000#16 = c ++ 0x0#4 ++ 0x00#8 :=
  (BitVec.and_append (x₂ := 0xF0#8) (y₂ := 0x00#8)).trans <| by
    rw [BitVec.and_zero, show (0xF0#8) = 0xF#4 ++ 0x0#4 from rfl, BitVec.and_append, BitVec.and_zero,
      show (0xF#4) = BitVec.allOnes 4 from rfl, BitVec.and_allOnes]

theorem formFXK_function (c : BitVec 4) (x : Reg) (kk : Byte) : formFXK c x kk &&& 0xF0FF#16 = c ++ 0x0#4 ++ kk :=
  (BitVec.and_append (x₂ := 0xF0#8) (y₂ := 0xFF#8)).trans <| by
    rw [show (0xFF#8) = BitVec.allOnes 8 from rfl, BitVec.and_allOnes, show (0xF0#8) = 0xF#4 ++ 0x0#4 from rfl,
      BitVec.and_append, BitVec.and_zero, show (0xF#4) = BitVec.allOnes 4 from rfl, BitVec.and_allOnes]

theorem formFXYN_function (c : BitVec 4) (x y : Reg) (n : BitVec 4) :
    formFXYN c x y n &&& 0xF00F#16 = c ++ 0x0#4 ++ 0x0#4 ++ n :=
  (BitVec.and_append (x₂ := 0xF00#12) (y₂ := 0xF#4)).trans <| by
    rw [show (0xF#4) = BitVec.allOnes 4 from rfl, BitVec.and_allOnes, show (0xF00#12) = 0xF0#8 ++ 0x0#4 from rfl,
      BitVec.and_append, BitVec.and_zero, show (0xF0#8) = 0xF#4 ++ 0x0#4 from rfl, BitVec.and_append,
      BitVec.and_zero, show (0xF#4) = BitVec.allOnes 4 from rfl, BitVec.and_allOnes]

theorem formFXYN_class (c : BitVec 4) (x y : Reg) (n : BitVec 4) :
    formFXYN c x y n &&& 0xF000#16 = c ++ 0x0#4 ++ 0x0#4 ++ 0x0#4 :=
  (BitVec.and_append (x₂ := 0xF00#12) (y₂ := 0x0#4)).trans <| by
    rw [BitVec.and_zero, show (0xF00#12) = 0xF0#8 ++ 0x0#4 from rfl,
      BitVec.and_append, BitVec.and_zero, show (0xF0#8) = 0xF#4 ++ 0x0#4 from rfl, BitVec.and_append,
      BitVec.and_zero, show (0xF#4) = BitVec.allOnes 4 from rfl, BitVec.and_allOnes]

theorem cls : Statement (.cls) := rfl

theorem ret : Statement (.ret) := rfl

theorem jp (nnn : Addr12) : Statement (.jp nnn) := formFA_masked 0x1#4 nnn

theorem call (nnn : Addr12) : Statement (.call nnn) := formFA_masked 0x2#4 nnn

theorem seImm (x : Reg) (kk : Byte) : Statement (.seImm x kk) := formFXK_class 0x3#4 x kk

theorem sneImm (x : Reg) (kk : Byte) : Statement (.sneImm x kk) := formFXK_class 0x4#4 x kk

theorem seReg (x y : Reg) : Statement (.seReg x y) := formFXYN_function 0x5#4 x y 0x0#4

theorem sneReg (x y : Reg) : Statement (.sneReg x y) := formFXYN_function 0x9#4 x y 0x0#4

theorem ldImm (x : Reg) (kk : Byte) : Statement (.ldImm x kk) := formFXK_class 0x6#4 x kk

theorem addImm (x : Reg) (kk : Byte) : Statement (.addImm x kk) := formFXK_class 0x7#4 x kk

theorem ldReg (x y : Reg) : Statement (.ldReg x y) := formFXYN_function 0x8#4 x y 0x0#4

theorem orReg (x y : Reg) : Statement (.orReg x y) := formFXYN_function 0x8#4 x y 0x1#4

theorem andReg (x y : Reg) : Statement (.andReg x y) := formFXYN_function 0x8#4 x y 0x2#4

theorem xorReg (x y : Reg) : Statement (.xorReg x y) := formFXYN_function 0x8#4 x y 0x3#4

theorem addReg (x y : Reg) : Statement (.addReg x y) := formFXYN_function 0x8#4 x y 0x4#4

theorem subReg (x y : Reg) : Statement (.subReg x y) := formFXYN_function 0x8#4 x y 0x5#4

theorem subnReg (x y : Reg) : Statement (.subnReg x y) := formFXYN_function 0x8#4 x y 0x7#4

theorem shr (x y : Reg) : Statement (.shr x y) := formFXYN_function 0x8#4 x y 0x6#4

theorem shl (x y : Reg) : Statement (.shl x y) := formFXYN_function 0x8#4 x y 0xE#4

theorem ldI (nnn : Addr12) : Statement (.ldI nnn) := formFA_masked 0xA#4 nnn

theorem addI (x : Reg) : Statement (.addI x) := formFXK_function 0xF#4 x 0x1E#8

theorem ldF (x : Reg) : Statement (.ldF x) := formFXK_function 0xF#4 x 0x29#8

theorem ldB (x : Reg) : Statement (.ldB x) := formFXK_function 0xF#4 x 0x33#8

theorem storeRegs (x : Reg) : Statement (.storeRegs x) := formFXK_function 0xF#4 x 0x55#8

theorem loadRegs (x : Reg) : Statement (.loadRegs x) := formFXK_function 0xF#4 x 0x65#8

theorem rnd (x : Reg) (kk : Byte) : Statement (.rnd x kk) := formFXK_class 0xC#4 x kk

theorem skp (x : Reg) : Statement (.skp x) := formFXK_function 0xE#4 x 0x9E#8

theorem sknp (x : Reg) : Statement (.sknp x) := formFXK_function 0xE#4 x 0xA1#8

theorem ldKey (x : Reg) : Statement (.ldKey x) := formFXK_function 0xF#4 x 0x0A#8

theorem drw (x y : Reg) (n : Fin 16) : Statement (.drw x y n) := formFXYN_class 0xD#4 x y (nibble n)

theorem ldVDt (x : Reg) : Statement (.ldVDt x) := formFXK_function 0xF#4 x 0x07#8

theorem ldDtV (x : Reg) : Statement (.ldDtV x) := formFXK_function 0xF#4 x 0x15#8

theorem ldStV (x : Reg) : Statement (.ldStV x) := formFXK_function 0xF#4 x 0x18#8

theorem jpV0 (nnn : Addr12) : Statement (.jpV0 nnn) := formFA_masked 0xB#4 nnn

end Sys2Proof.Laws.RowBits
end

