-- ==== Sys2Proof/Tests/Slice0.lean ====
section
/-! SUPPORT. Tests and witnesses. Each expected value is the spec's: a vector T<n> or H<n> of 95_test_vectors, or the
pattern of 30_encoding R75 written out. Each `witness_<Obligation>` meets the hypotheses of that statement. -/

open Sys2Proof Sys2Proof.Machine

namespace Sys2Proof.Tests

/-! ### Small states -/

/-- The reset state with the word `w` at `pc`. -/
def holding (w : Word) (s : State) : State := s.writeBytes s.pc.toNat (bytesOfWord w)

/-- The state a step leaves; the state itself where the step stops. -/
def after (s : State) : State :=
  match step s with
  | .next t => t
  | .fault _ => s
  | .refused _ => s

/-- One step from reset with the word `w` at 0x200, in a state prepared by `f`. -/
def run (w : Word) (f : State → State) : State := after (holding w (f State.reset))

/-- The reset state under BNNN_MODE = jump_v0. -/
def withJumpV0 (s : State) : State := { s with params := { s.params with bnnnMode := .jumpV0 } }

/-- The number of stack entries in use, and the entry `stack[0]`. -/
def withStack (sp : Fin 17) (w : Word) (s : State) : State := { s with sp := sp, stack := s.stack.set 0 w }

/-- The cell in column `x` of row `y` turned over. -/
def flipped (x : Fin 64) (y : Fin 32) (s : State) : State := s.setFb (s.fb.flip ⟨x, y⟩)

/-- A faulted state: that of T3. -/
def faulted : State := State.reset.faultedWith .stackUnderflow 4 (some 0x00EE#16) none

/-! ### Well-formedness and the canonical form of memory -/

/-- Bnnn is ill-formed where BNNN_MODE is invalid, and is refused (R76, R108). -/
theorem test_bnnn_ill_formed :
    (Instr.jpV0 0x300#12).wellFormed .invalid = false ∧ (Instr.jpV0 0x300#12).wellFormed .jumpV0 = true ∧
    decode .invalid 0xB300#16 = .rejected (.optionalRowOff 0xB300#16) := by decide

/-- Addresses out of order, outside memory, or listed with what they read as anyway are refused. -/
theorem test_memory_ill_formed :
    Memory.wf defaultFont [(0x300, 1#8), (0x200, 1#8)] = false ∧ Memory.wf defaultFont [(0x200, 1#8), (0x200, 2#8)] = false ∧
    Memory.wf defaultFont [(0x1000, 1#8)] = false ∧ Memory.wf defaultFont [(0x200, 0#8)] = false ∧
    Memory.wf defaultFont [(0x000, 0xF0#8)] = false ∧ Memory.wf defaultFont [(0x000, 0#8), (0xFFF, 1#8)] = true := by
  decide

/-- Writing what an unlisted byte reads as removes the entry. -/
theorem test_write_back_unlists :
    ((State.reset.writeByte 0x300 1#8).writeByte 0x300 0#8).mem = [] := by decide

/-! ### Decoding: one word of each row, from its pattern (R75) -/

theorem test_decode_control_flow :
    decode .invalid 0x00E0#16 = .instr .cls ∧ decode .invalid 0x00EE#16 = .instr .ret ∧
    decode .invalid 0x1234#16 = .instr (.jp 0x234#12) ∧ decode .invalid 0x2210#16 = .instr (.call 0x210#12) ∧
    decode .invalid 0x3A42#16 = .instr (.seImm 0xA 0x42#8) ∧ decode .invalid 0x4B43#16 = .instr (.sneImm 0xB 0x43#8) ∧
    decode .invalid 0x5C70#16 = .instr (.seReg 0xC 7) ∧ decode .invalid 0x9D80#16 = .instr (.sneReg 0xD 8) ∧
    decode .jumpV0 0xBFFF#16 = .instr (.jpV0 0xFFF#12) := by decide

theorem test_decode_register_alu :
    decode .invalid 0x6A9C#16 = .instr (.ldImm 0xA 0x9C#8) ∧ decode .invalid 0x7203#16 = .instr (.addImm 2 3#8) ∧
    decode .invalid 0x8150#16 = .instr (.ldReg 1 5) ∧ decode .invalid 0x8121#16 = .instr (.orReg 1 2) ∧
    decode .invalid 0x8342#16 = .instr (.andReg 3 4) ∧ decode .invalid 0x8563#16 = .instr (.xorReg 5 6) ∧
    decode .invalid 0x8784#16 = .instr (.addReg 7 8) ∧ decode .invalid 0x89A5#16 = .instr (.subReg 9 0xA) ∧
    decode .invalid 0x8BC7#16 = .instr (.subnReg 0xB 0xC) ∧ decode .invalid 0x8DE6#16 = .instr (.shr 0xD 0xE) ∧
    decode .invalid 0x8F0E#16 = .instr (.shl 0xF 0) := by decide

theorem test_decode_addressing :
    decode .invalid 0xA300#16 = .instr (.ldI 0x300#12) ∧ decode .invalid 0xF41E#16 = .instr (.addI 4) ∧
    decode .invalid 0xFA29#16 = .instr (.ldF 0xA) ∧ decode .invalid 0xF033#16 = .instr (.ldB 0) ∧
    decode .invalid 0xF255#16 = .instr (.storeRegs 2) ∧ decode .invalid 0xFF65#16 = .instr (.loadRegs 0xF) := by decide

theorem test_decode_other :
    decode .invalid 0xC30F#16 = .instr (.rnd 3 0x0F#8) ∧ decode .invalid 0xE19E#16 = .instr (.skp 1) ∧
    decode .invalid 0xE2A1#16 = .instr (.sknp 2) ∧ decode .invalid 0xF30A#16 = .instr (.ldKey 3) ∧
    decode .invalid 0xD12F#16 = .instr (.drw 1 2 0xF) ∧ decode .invalid 0xF107#16 = .instr (.ldVDt 1) ∧
    decode .invalid 0xF015#16 = .instr (.ldDtV 0) ∧ decode .invalid 0xF218#16 = .instr (.ldStV 2) := by decide

/-- T19 to T27, one word of each illegal class (R76). -/
theorem test_decode_rejects :
    decode .invalid 0x0123#16 = .rejected (.noRow 0x0123#16) ∧ decode .invalid 0x0000#16 = .rejected (.noRow 0x0000#16) ∧
    decode .invalid 0x5121#16 = .rejected (.noRow 0x5121#16) ∧ decode .invalid 0x8128#16 = .rejected (.noRow 0x8128#16) ∧
    decode .invalid 0x812F#16 = .rejected (.noRow 0x812F#16) ∧ decode .invalid 0x9121#16 = .rejected (.noRow 0x9121#16) ∧
    decode .invalid 0xE0FF#16 = .rejected (.noRow 0xE0FF#16) ∧ decode .invalid 0xF0FF#16 = .rejected (.noRow 0xF0FF#16) ∧
    decodeBytes .invalid [0x12#8] = (.rejected .tooFewBytes, [0x12#8]) := by decide

/-- What the host asks of the decoder and the step on a table word. -/
theorem test_table_words :
    decodeTableWord 16 0xD125 = some (.drw 1 2 5) ∧ decodeTableWord 16 0xB300 = some (.jpV0 0x300#12) ∧
    (after (State.reset.withFetchWord 16 0x6A9C)).reg 0xA = 0x9C#8 ∧
    (after (State.reset.withFetchWord 16 0xB300)).pc = 0x300#16 := by decide

/-! ### Control flow -/

/-- T1. -/
theorem test_cls : (run 0x00E0#16 (flipped 63 31)).fb = Framebuffer.blank := by decide

/-- T2, T3. -/
theorem test_ret :
    (run 0x00EE#16 (withStack 1 0x206#16)).pc = 0x206#16 ∧ (run 0x00EE#16 (withStack 1 0x206#16)).sp = 0 ∧
    (run 0x00EE#16 id).status = .faulted ⟨.stackUnderflow, 4, 0x200#16, some 0x00EE#16, none⟩ := by decide

/-- T4. -/
theorem test_jp : (run 0x1234#16 id).pc = 0x234#16 := by decide

/-- T8, T7. -/
theorem test_call :
    (run 0x2400#16 (State.setPc · 0xFFE#16)).pc = 0x400#16 ∧
    (run 0x2400#16 (State.setPc · 0xFFE#16)).stack[0] = 0x1000#16 ∧
    (run 0x2210#16 (withStack 16 0x202#16)).status =
      .faulted ⟨.stackOverflow, 3, 0x200#16, some 0x2210#16, none⟩ := by decide

/-- T9 to T12. -/
theorem test_immediate_skips :
    (run 0x3342#16 (State.setReg · 3 0x42#8)).pc = 0x204#16 ∧ (run 0x3343#16 (State.setReg · 3 0x42#8)).pc = 0x202#16 ∧
    (run 0x4342#16 (State.setReg · 3 0x42#8)).pc = 0x202#16 ∧
    (run 0x4300#16 (State.setReg · 3 0x42#8)).pc = 0x204#16 := by decide

/-- T14 to T17. -/
theorem test_register_skips :
    (run 0x5120#16 (State.setReg · 2 8#8)).pc = 0x202#16 ∧ (run 0x5110#16 id).pc = 0x204#16 ∧
    (run 0x9120#16 (State.setReg · 2 8#8)).pc = 0x204#16 ∧ (run 0x9110#16 id).pc = 0x202#16 := by decide

/-- T18: a skip past the end of memory. -/
theorem test_skip_past_end : (run 0x3000#16 (State.setPc · 0xFFC#16)).pc = 0x1000#16 := by decide

/-- T110, and T25 with the row off. -/
theorem test_jp_v0 :
    (run 0xBFFF#16 (fun s => (withJumpV0 s).setReg 0 0xFF#8)).pc = 0x10FE#16 ∧
    (run 0xB300#16 id).status = .faulted ⟨.invalidInstruction, 1, 0x200#16, some 0xB300#16, none⟩ := by decide

/-! ### Register load and ALU -/

/-- T31, T35, T36. -/
theorem test_loads :
    (run 0x6A9C#16 id).reg 0xA = 0x9C#8 ∧ (run 0x7F02#16 (State.setReg · 0xF 0xFF#8)).reg 0xF = 1#8 ∧
    (run 0x8150#16 (State.setReg · 5 0x11#8)).reg 1 = 0x11#8 := by decide

/-- T37 to T39: VF is not reset. -/
theorem test_bitwise :
    (run 0x8121#16 (fun s => ((s.setReg 1 0x0F#8).setReg 2 0xF0#8).setReg 0xF 5#8)).reg 1 = 0xFF#8 ∧
    (run 0x8121#16 (fun s => ((s.setReg 1 0x0F#8).setReg 2 0xF0#8).setReg 0xF 5#8)).reg 0xF = 5#8 ∧
    (run 0x8122#16 (fun s => (s.setReg 1 0x3C#8).setReg 2 0x0F#8)).reg 1 = 0x0C#8 ∧
    (run 0x8123#16 (fun s => (s.setReg 1 0x3C#8).setReg 2 0x0F#8)).reg 1 = 0x33#8 := by decide

/-- T41, T45. -/
theorem test_add :
    (run 0x8124#16 (fun s => (s.setReg 1 0xFF#8).setReg 2 1#8)).reg 1 = 0#8 ∧
    (run 0x8124#16 (fun s => (s.setReg 1 0xFF#8).setReg 2 1#8)).reg 0xF = 1#8 ∧
    (run 0x8F24#16 (fun s => (s.setReg 0xF 0xFF#8).setReg 2 1#8)).reg 0xF = 1#8 := by decide

/-- T48, T49, T54, T56. -/
theorem test_subtract :
    (run 0x8125#16 (fun s => (s.setReg 1 1#8).setReg 2 2#8)).reg 1 = 0xFF#8 ∧
    (run 0x8125#16 (fun s => (s.setReg 1 5#8).setReg 2 5#8)).reg 0xF = 1#8 ∧
    (run 0x8127#16 (fun s => (s.setReg 1 2#8).setReg 2 1#8)).reg 1 = 0xFF#8 ∧
    (run 0x8F27#16 (fun s => (s.setReg 0xF 5#8).setReg 2 3#8)).reg 0xF = 0#8 := by decide

/-- T58, T60, T61, T63. -/
theorem test_shifts :
    (run 0x8126#16 (State.setReg · 1 0x81#8)).reg 1 = 0x40#8 ∧ (run 0x8F06#16 (State.setReg · 0xF 3#8)).reg 0xF = 1#8 ∧
    (run 0x810E#16 (State.setReg · 1 0x81#8)).reg 1 = 2#8 ∧
    (run 0x8F0E#16 (State.setReg · 0xF 0x80#8)).reg 0xF = 1#8 := by decide

/-! ### Addressing -/

/-- T64, T67, T70. -/
theorem test_index :
    (run 0xA300#16 id).i = 0x300#16 ∧ (run 0xF41E#16 (fun s => (s.setI 0xFFFF#16).setReg 4 1#8)).i = 0#16 ∧
    (run 0xF029#16 (State.setReg · 0 0xFF#8)).i = 0x4FB#16 := by decide

/-- T73, T74: the last place three digits fit, and one above it. -/
theorem test_bcd :
    (run 0xF033#16 (fun s => (s.setI 0xFFD#16).setReg 0 0xFF#8)).readBytes 0xFFD 3 = [2#8, 5#8, 5#8] ∧
    run 0xF033#16 (State.setI · 0xFFE#16) = (holding 0xF033#16 (State.reset.setI 0xFFE#16)).faultedWith
      .addressOutOfRange 2 (some 0xF033#16) (some 0x1000) := by decide

/-- T76, T80. -/
theorem test_block :
    (run 0xF255#16 (fun s => (((s.setI 0x300#16).setReg 0 1#8).setReg 1 2#8).setReg 2 3#8)).readBytes 0x300 4 =
      [1#8, 2#8, 3#8, 0#8] ∧
    (run 0xF265#16 (fun s => (s.setI 0x300#16).writeBytes 0x300 [1#8, 5#8, 6#8, 7#8])).v.toList.take 4 =
      [1#8, 5#8, 6#8, 0#8] := by decide

/-! ### Random, input -/

/-- T83. -/
theorem test_rnd : (run 0xC30F#16 ({ · with randomIn := [0xAB#8] })).reg 3 = 0x0B#8 := by decide

/-- T86, T89, T88. -/
theorem test_key_skips :
    (run 0xE19E#16 (fun s => (s.setReg 1 7#8).setKeyDown 7 true)).pc = 0x204#16 ∧
    (run 0xE1A1#16 (State.setReg · 1 7#8)).pc = 0x204#16 ∧
    (run 0xE19E#16 (State.setReg · 1 16#8)).status =
      .faulted ⟨.keyIndexOutOfRange, 5, 0x200#16, some 0xE19E#16, some 16⟩ := by decide

/-- T92, T93. -/
theorem test_wait_for_key :
    (run 0xF30A#16 (State.setReg · 3 0x55#8)).pc = 0x200#16 ∧
    (run 0xF30A#16 (fun s => (s.setKeyDown 9 true).setKeyDown 4 true)).reg 3 = 4#8 := by decide

/-! ### Display, timers -/

/-- T98: the start wraps. -/
theorem test_draw_wraps :
    (run 0xD011#16 (fun s => (((s.setI 0x300#16).writeByte 0x300 0x80#8).setReg 0 0x41#8).setReg 1 0x21#8)).fb =
      (flipped 1 1 State.reset).fb := by decide

/-- T100: a collision. -/
theorem test_draw_collides :
    (run 0xD011#16 (fun s => flipped 1 0 ((s.setI 0x300#16).writeByte 0x300 0xC0#8))).reg 0xF = 1#8 ∧
    (run 0xD011#16 (fun s => flipped 1 0 ((s.setI 0x300#16).writeByte 0x300 0xC0#8))).fb =
      (flipped 0 0 State.reset).fb := by decide

/-- T106 to T108. -/
theorem test_timers :
    (run 0xF107#16 (State.setDt · 6#8)).reg 1 = 6#8 ∧ (run 0xF015#16 (State.setReg · 0 7#8)).dt = 7#8 ∧
    (run 0xF218#16 (State.setReg · 2 1#8)).st = 1#8 := by decide

/-! ### Fetch faults and the host ports -/

/-- T29, T30, H13. -/
theorem test_fetch_faults :
    (after (State.reset.setPc 0xFFF#16)).status = .faulted ⟨.addressOutOfRange, 2, 0xFFF#16, none, some 0x1000⟩ ∧
    (after (State.reset.setPc 0x1000#16)).status = .faulted ⟨.addressOutOfRange, 2, 0x1000#16, none, some 0x1000⟩ ∧
    (after State.reset).status = .faulted ⟨.invalidInstruction, 1, 0x200#16, some 0x0000#16, none⟩ := by decide

/-- H1, H3: the floor, and the tone end. -/
theorem test_tick :
    tickTimers State.reset = (State.reset, false) ∧
    (tickTimers (State.reset.setSt 1#8)).2 = true ∧ (tickTimers (State.reset.setSt 1#8)).1.st = 0#8 := by decide

/-- H11, and the cell in column 5 of row 1 at index 1·64 + 5 (R243). -/
theorem test_load_and_display :
    loadPort [0x00#8, 0xE0#8] State.reset = .next (State.reset.writeByte 0x201 0xE0#8, .ok) ∧
    (display (flipped 5 1 State.reset))[69]? = some true ∧
    (display (flipped 5 1 State.reset))[68]? = some false := ⟨rfl, rfl, rfl⟩

/-! ### Witnesses: hypotheses of the encoding and step statements -/

theorem witness_DecodeOfEncode :
    (Instr.jpV0 0xFFF#12).wellFormed .jumpV0 = true ∧ (Instr.shl 0xF 0xF).wellFormed .invalid = true := by decide

theorem witness_EncodeOfDecode :
    decode .invalid 0x81F6#16 = .instr (.shr 1 0xF) ∧ decode .jumpV0 0xBFFF#16 = .instr (.jpV0 0xFFF#12) := by decide

/-- A word for each line of the table, on its boundary. -/
theorem witness_IllegalWordsAreRejected :
    decode .jumpV0 0x00E1#16 = .rejected (.noRow 0x00E1#16) ∧ decode .jumpV0 0x500F#16 = .rejected (.noRow 0x500F#16) ∧
    decode .jumpV0 0x800D#16 = .rejected (.noRow 0x800D#16) ∧ decode .jumpV0 0x9FF1#16 = .rejected (.noRow 0x9FF1#16) ∧
    decode .invalid 0xB000#16 = .rejected (.optionalRowOff 0xB000#16) ∧
    decode .jumpV0 0xE0A2#16 = .rejected (.noRow 0xE0A2#16) ∧
    decode .jumpV0 0xFF66#16 = .rejected (.noRow 0xFF66#16) := by decide

theorem witness_DecodeFindsTheOneRow :
    decodeRow 0xF065#16 = some (.loadRegs 0) ∧ 0xF065#16 &&& rowMask (.loadRegs 0xF) = rowMatch (.loadRegs 0xF) := by
  decide

theorem witness_StepRunsTheDecodedInstruction :
    (holding 0x6A9C#16 State.reset).executes (.ldImm 0xA 0x9C#8) ∧
    (holding 0x1FFE#16 (State.reset.setPc 0xFFE#16)).executes (.jp 0xFFE#12) :=
  ⟨⟨rfl, by decide, by decide⟩, ⟨rfl, by decide, by decide⟩⟩

/-- The last address in memory, the first one outside it, and an undefined word at the last fetch address. -/
theorem witness_FetchAndDecodeFaultsAreTaken :
    (State.reset.setPc 0xFFF#16).status = .running ∧ (State.reset.setPc 0xFFF#16).pc.toNat > 0xFFE ∧
    (State.reset.setPc 0x1002#16).pc.toNat > 0xFFE ∧ (State.reset.setPc 0xFFE#16).status = .running ∧
    (State.reset.setPc 0xFFE#16).pc.toNat ≤ 0xFFE ∧
    0x0000#16 = wordOfBytes ((State.reset.setPc 0xFFE#16).readByte 0xFFE) ((State.reset.setPc 0xFFE#16).readByte 0xFFF) ∧
    decode .invalid 0x0000#16 = .rejected (.noRow 0x0000#16) := by decide

theorem witness_FaultIsStickyUntilReset :
    faulted.status = .faulted ⟨.stackUnderflow, 4, 0x200#16, some 0x00EE#16, none⟩ ∧
    transact .tick faulted = .next (faulted, .toneEnd false) ∧
    transact .reset faulted = .next (State.reset, .done) := ⟨rfl, rfl, rfl⟩

theorem witness_FaultsArePrecise :
    State.reset.status = .running ∧
    step State.reset = .next (State.reset.faultedWith .invalidInstruction 1 (some 0x0000#16) none) ∧
    (State.reset.setPc 0xFFF#16).status = .running ∧
    step (State.reset.setPc 0xFFF#16) =
      .next ((State.reset.setPc 0xFFF#16).faultedWith .addressOutOfRange 2 none (some 0x1000)) := ⟨rfl, rfl, rfl, rfl⟩

/-- A step for each cause, at its boundary: each of these faults. -/
theorem witness_FaultsHaveTheirCauses :
    (∃ t, step (State.reset.setPc 0xFFF#16) = .next t) ∧ (∃ t, step State.reset = .next t) ∧
    (holding 0x2210#16 (withStack 16 0x202#16 State.reset)).executes (.call 0x210#12) ∧
    (holding 0x00EE#16 State.reset).executes .ret ∧
    (holding 0xF033#16 (State.reset.setI 0xFFE#16)).executes (.ldB 0) ∧
    ¬ (holding 0xF033#16 (State.reset.setI 0xFFE#16)).inMemory (accessLength (.ldB 0)) ∧
    (holding 0xE19E#16 (State.reset.setReg 1 16#8)).executes (.skp 1) ∧
    ((holding 0xE19E#16 (State.reset.setReg 1 16#8)).reg 1).toNat > 0x0F :=
  ⟨⟨_, rfl⟩, ⟨_, rfl⟩, ⟨rfl, by decide, by decide⟩, ⟨rfl, by decide, by decide⟩, ⟨rfl, by decide, by decide⟩,
    fun h => absurd (h 2 (by decide)) (by decide), ⟨rfl, by decide, by decide⟩, by decide⟩

/-! ### Witnesses: invariants and whole-machine rules -/

/-- A state with the invariant at the bounds of `pc` and of a return address. -/
theorem inv_at_bounds : (withStack 1 0x1000#16 (State.reset.setPc 0x1002#16)).Inv := by
  refine ⟨rfl, by show (0x1002 : Nat) ≤ 0x1002; decide, ?_, fun r h => by cases h⟩
  intro k hk
  have hk : k = 0 := Fin.ext (by change k.val < 1 at hk; omega)
  subst hk
  decide

theorem witness_StepKeepsInv :
    (withStack 1 0x1000#16 (State.reset.setPc 0x1002#16)).Inv ∧
    ∃ t, step (withStack 1 0x1000#16 (State.reset.setPc 0x1002#16)) = .next t := ⟨inv_at_bounds, _, rfl⟩

/-- A step that faults, and a load. -/
theorem witness_EveryTransactionKeepsInv :
    (withStack 1 0x1000#16 (State.reset.setPc 0x1002#16)).Inv ∧
    (∃ t q, transact (.step 0#8) (withStack 1 0x1000#16 (State.reset.setPc 0x1002#16)) = .next (t, q)) ∧
    (∃ t q, transact (.load [0x12#8, 0x34#8]) (withStack 1 0x1000#16 (State.reset.setPc 0x1002#16)) = .next (t, q)) :=
  ⟨inv_at_bounds, ⟨_, _, rfl⟩, ⟨_, _, rfl⟩⟩

theorem witness_ReachableStatesHaveInv : State.Reachable Params.default State.reset := ⟨[], rfl⟩

theorem witness_ParametersNeverChange : transact .reset State.reset = .next (State.reset, .done) := rfl

theorem witness_RandomByteUsedOnlyByRnd :
    (holding 0xC30F#16 State.reset).executes (.rnd 3 0x0F#8) ∧
    (∀ x kk, ¬ (holding 0x00E0#16 State.reset).executes (.rnd x kk)) ∧
    (∃ t q, transact (.step 0#8) (holding 0x00E0#16 State.reset) = .next (t, q)) := by
  refine ⟨⟨rfl, by decide, by decide⟩, fun x kk h => ?_, _, _, rfl⟩
  have hd : decode .invalid 0x00E0#16 = .instr (.rnd x kk) := h.2.2
  rw [show decode .invalid 0x00E0#16 = .instr .cls from rfl] at hd
  cases hd

theorem witness_KeysChangeOnlyBySetKey :
    (15 : Fin 16) ≠ 0 ∧ transact .tick State.reset = .next (State.reset, .toneEnd false) ∧
    HostCall.tick ≠ .reset ∧ ∀ k b, HostCall.tick ≠ .keySet k b := ⟨by decide, rfl, by decide, by simp⟩

theorem witness_TimersWrittenOnlyByTheirInstructions :
    (∃ t, step (holding 0xF015#16 (State.reset.setReg 0 7#8)) = .next t ∧ t.dt ≠ (0#8 : Byte)) ∧
    (∃ t, step (holding 0xF018#16 (State.reset.setReg 0 7#8)) = .next t ∧ t.st ≠ (0#8 : Byte)) :=
  ⟨⟨_, rfl, by decide⟩, ⟨_, rfl, by decide⟩⟩

theorem witness_SoundTimerIsNeverRead : ∃ t, step (holding 0xF218#16 State.reset) = .next t := ⟨_, rfl⟩

theorem witness_RegistersWrittenAsTabled :
    (∃ t, exec (.addReg 1 2) State.reset = .next t) ∧ (2 : Reg) ∉ regsWritten (.addReg 1 2) ∧
    (15 : Reg) ∉ regsWritten (.loadRegs 14) := ⟨⟨_, rfl⟩, by decide, by decide⟩

/-- The bytes just below and just above the three stored. -/
theorem witness_MemoryWrittenAsTabled :
    (∃ t, exec (.ldB 0) (State.reset.setI 0x300#16) = .next t) ∧
    ¬ (0x300 ≤ 0x2FF ∧ 0x2FF < 0x300 + bytesStored (.ldB 0)) ∧
    ¬ (0x300 ≤ 0x303 ∧ 0x303 < 0x300 + bytesStored (.ldB 0)) := ⟨⟨_, rfl⟩, by decide, by decide⟩

theorem witness_IndexAndStackWriters :
    (∃ t, exec (.call 0x210#12) State.reset = .next t) ∧ writesIndex (.call 0x210#12) = false ∧
    (∃ t, exec (.ldI 0x300#12) State.reset = .next t) ∧ writesStack (.ldI 0x300#12) = false :=
  ⟨⟨_, rfl⟩, rfl, ⟨_, rfl⟩, rfl⟩

/-! ### Witnesses: control flow -/

theorem witness_RetPops : 0 < (withStack 1 0x206#16 State.reset).sp.val ∧ 0 < (withStack 16 0x206#16 State.reset).sp.val := by
  decide

theorem witness_CallPushes : State.reset.sp.val < 16 ∧ (withStack 15 0x206#16 State.reset).sp.val < 16 := by decide

theorem witness_StackFaults : (withStack 16 0x206#16 State.reset).sp.val = 16 ∧ State.reset.sp.val = 0 := by decide

/-- The callee may change everything but the stack. -/
theorem witness_RetResumesAfterCall :
    (withStack 15 0x206#16 State.reset).sp.val < 16 ∧
    ∃ t, exec (.call 0x210#12) (withStack 15 0x206#16 State.reset) = .next t ∧
      (t.setPc 0x300#16).stack = t.stack ∧ (t.setPc 0x300#16).sp = t.sp := ⟨by decide, _, rfl, rfl, rfl⟩

theorem witness_JpV0InEachMode :
    (withJumpV0 State.reset).params.bnnnMode = .jumpV0 ∧ State.reset.params.bnnnMode = .invalid := ⟨rfl, rfl⟩

/-! ### Witnesses: arithmetic and addressing -/

theorem witness_BitwiseOperations : (7 : Nat) < 8 := by decide

theorem witness_AddWithCarry : (0xE : Reg) ≠ 0xF := by decide

theorem witness_SubtractWithBorrow : (0 : Reg) ≠ 0xF := by decide

theorem witness_ShiftsByOne : (0xE : Reg) ≠ 0xF := by decide

theorem witness_GlyphAddress :
    State.reset.params.fontDigitMode = .unmasked ∧
    ({ State.reset with params := { State.reset.params with fontDigitMode := .lowNibble } } : State).params.fontDigitMode =
      .lowNibble := ⟨rfl, rfl⟩

/-- `n` bytes ending at the last address of memory. -/
theorem inMemory_to_end (n : Nat) (w : Word) (h : w.toNat + n ≤ 0x1000) : (State.reset.setI w).inMemory n := by
  intro k hk
  show w.toNat + k ≤ 0xFFF
  omega

theorem witness_BcdStoresThreeDigits : (State.reset.setI 0xFFD#16).inMemory 3 := inMemory_to_end _ _ (by decide)

theorem witness_BlockTransfers :
    (State.reset.setI 0xFF0#16).inMemory ((0xF : Reg).val + 1) ∧ (State.reset.setI 0xFFF#16).inMemory ((0 : Reg).val + 1) ∧
    (0xF : Reg) ≤ 0xF ∧ (0 : Reg) ≤ 0 :=
  ⟨inMemory_to_end _ _ (by decide), inMemory_to_end _ _ (by decide), by decide, by decide⟩

theorem witness_LoadAfterStoreRestores :
    (State.reset.setI 0xFF0#16).inMemory ((0xF : Reg).val + 1) ∧ (0xF : Reg) ≤ 0xF :=
  ⟨inMemory_to_end _ _ (by decide), by decide⟩

/-- Each of the four instructions, one byte past the end. -/
theorem witness_DataRangeFaults :
    ¬ (State.reset.setI 0xFFE#16).inMemory (accessLength (.ldB 0)) ∧
    ¬ (State.reset.setI 0xFFF#16).inMemory (accessLength (.storeRegs 1)) ∧
    ¬ (State.reset.setI 0xFF1#16).inMemory (accessLength (.loadRegs 0xF)) ∧
    ¬ (State.reset.setI 0x1000#16).inMemory (accessLength (.drw 0 0 1)) :=
  ⟨fun h => absurd (h 2 (by decide)) (by decide), fun h => absurd (h 1 (by decide)) (by decide),
    fun h => absurd (h 15 (by decide)) (by decide), fun h => absurd (h 0 (by decide)) (by decide)⟩

/-! ### Witnesses: random, input, display -/

theorem witness_RndMasksOneByte :
    ({ State.reset with randomIn := [0xAB#8] } : State).randomIn = 0xAB#8 :: [] ∧ State.reset.randomIn = [] := ⟨rfl, rfl⟩

theorem witness_KeySkips :
    (State.reset.reg 1).toNat = (0 : Fin 16).val ∧ ((State.reset.setReg 1 15#8).reg 1).toNat = (15 : Fin 16).val := by
  decide

theorem witness_KeyIndexFaults : ((State.reset.setReg 1 16#8).reg 1).toNat > 0x0F := by decide

/-- The highest key alone, and no key. -/
theorem witness_WaitForKey :
    (State.reset.setKeyDown 15 true).keyDown 15 = true ∧
    (∀ j : Fin 16, j < 15 → (State.reset.setKeyDown 15 true).keyDown j = false) ∧
    ∀ k, State.reset.keyDown k = false := by decide

theorem witness_WaitForKeyReexecutes :
    (holding 0xF30A#16 State.reset).executes (.ldKey 3) ∧ ∀ k, (holding 0xF30A#16 State.reset).keyDown k = false :=
  ⟨⟨rfl, by decide, by decide⟩, by decide⟩

/-- Fifteen rows and one row to the end of memory, no row beyond it; a cell covered and one that is not; a cell that
was on (T100), and none (n = 0). -/
theorem witness_DrawFlipsTheCoveredCells :
    (State.reset.setI 0xFF1#16).inMemory (15 : Fin 16).val ∧ (State.reset.setI 0xFFF#16).inMemory (1 : Fin 16).val ∧
    (State.reset.setI 0xFFFF#16).inMemory (0 : Fin 16).val ∧ State.reset.covers 0 1 5 ⟨0, 0⟩ ∧
    ¬ State.reset.covers 0 1 0 ⟨0, 0⟩ ∧
    (∃ t, exec (.drw 0 1 5) (flipped 0 0 State.reset) = .next t ∧
      ∃ p, (flipped 0 0 State.reset).cell p = true ∧ t.cell p = false) ∧
    (∃ t, exec (.drw 0 1 0) State.reset = .next t ∧ ¬ ∃ p, State.reset.cell p = true ∧ t.cell p = false) := by
  refine ⟨inMemory_to_end _ _ (by decide), inMemory_to_end _ _ (by decide), fun k hk => absurd hk (Nat.not_lt_zero k),
    ⟨0, 0, by decide, by decide, by decide, rfl, rfl⟩, ?_, ⟨_, rfl, ⟨0, 0⟩, by decide, by decide⟩, ⟨_, rfl, ?_⟩⟩
  · rintro ⟨r, c, hr, -⟩
    exact absurd hr (Nat.not_lt_zero r)
  · rintro ⟨p, hp, hq⟩
    exact absurd (hp.symm.trans hq) (by decide)

/-- A cell covered that was off at first. -/
theorem witness_DrawTwiceRestores :
    State.reset.inMemory (5 : Fin 16).val ∧ (0 : Reg) ≠ 0xF ∧ (0xE : Reg) ≠ 0xF ∧
    State.reset.covers 0 0xE 5 ⟨0, 0⟩ ∧ State.reset.cell ⟨0, 0⟩ = false :=
  ⟨inMemory_to_end 5 0#16 (by decide), by decide, by decide,
    ⟨0, 0, by decide, by decide, by decide, rfl, rfl⟩, by decide⟩

/-! ### Witnesses: ports -/

theorem witness_TickCountsDown :
    (∃ u, exec (.ldDtV 0) (State.reset.setReg 0 7#8) = .next u ∧ u.dt ≠ (State.reset.setReg 0 7#8).dt) ∧
    (∃ u, exec (.ldStV 0) (State.reset.setReg 0 7#8) = .next u ∧ u.st ≠ (State.reset.setReg 0 7#8).st) :=
  ⟨⟨_, rfl, by decide⟩, ⟨_, rfl, by decide⟩⟩

/-- The empty program, the longest one, and one byte more (H8 to H10). -/
theorem witness_LoadCopiesOrFails :
    ([] : List Byte).length ≤ 0xE00 ∧ (List.replicate 0xE00 (0xAA#8 : Byte)).length ≤ 0xE00 ∧
    (List.replicate 0xE00 (0xAA#8 : Byte))[0xDFF]? = some (0xAA#8 : Byte) ∧
    (List.replicate 0xE01 (0xAA#8 : Byte)).length > 0xE00 :=
  ⟨by decide, List.length_replicate.le, List.getElem?_replicate_of_lt (by decide),
    Nat.lt_of_lt_of_eq (by decide : 0xE00 < 0xE01) List.length_replicate.symm⟩

/-- The last byte of the font, the first byte after it, and the longest program. -/
theorem witness_ResetRestores :
    State.reset.params.font[79]? = some (0x80#8 : Byte) ∧ 0x50 ≤ 0x50 ∧
    (List.replicate 0xE00 (0xAA#8 : Byte)).length ≤ 0xE00 := ⟨by decide, by decide, List.length_replicate.le⟩

theorem witness_DisplayShowsTheCells :
    (∃ t q, transact (.step 0#8) (holding 0x00E0#16 (flipped 0 0 State.reset)) = .next (t, q) ∧
      t.cell ⟨0, 0⟩ ≠ (holding 0x00E0#16 (flipped 0 0 State.reset)).cell ⟨0, 0⟩) ∧ HostCall.step 0#8 ≠ .reset :=
  ⟨⟨_, _, rfl, by decide⟩, by decide⟩

theorem witness_SelfJumpStays : (holding 0x1300#16 (State.reset.setPc 0x300#16)).atEnd := ⟨rfl, 0x1300#16, rfl, rfl⟩

/-- The last fetch address, a byte written there, and one written above it. -/
theorem witness_FetchIsBigEndian :
    (State.reset.setPc 0xFFE#16).pc.toNat ≤ 0xFFE ∧ 0xFFE ≤ 0xFFE ∧ (State.reset.setPc 0xFFE#16).pc.toNat = 0xFFE ∧
    0xFFF ≤ 0xFFF ∧ (State.reset.setPc 0xFFE#16).pc.toNat + 1 = 0xFFF := by decide

theorem witness_CanonicalMemoryIsUnique :
    (State.reset.writeByte 0xFFF 1#8).memCanonical ∧
    ((State.reset.writeByte 0xFFF 2#8).writeByte 0xFFF 1#8).memCanonical ∧
    (State.reset.writeByte 0xFFF 1#8).params = ((State.reset.writeByte 0xFFF 2#8).writeByte 0xFFF 1#8).params ∧
    ∀ a, (State.reset.writeByte 0xFFF 1#8).readByte a =
      ((State.reset.writeByte 0xFFF 2#8).writeByte 0xFFF 1#8).readByte a := ⟨rfl, rfl, rfl, fun _ => rfl⟩

end Sys2Proof.Tests
end

section
/-! SUPPORT. The frame `Only` along the shared updates. Each update of the state after keeps a frame that allows the
components the update writes; a frame of an instruction is the chain of its updates, from `Only.refl`. -/

namespace Sys2Proof.Machine

variable {w : Writes} {s t : State}

theorem Only.refl (w : Writes) (s : State) : Only w s s where
  regs _ _ := rfl
  bytes _ _ := rfl
  index _ := rfl
  stack _ := ⟨rfl, rfl⟩
  dt _ := rfl
  st _ := rfl
  fb _ _ := rfl
  random _ := ⟨rfl, rfl⟩
  key _ := rfl
  status := rfl
  params := rfl

/-- Every frame leaves `pc` free. -/
theorem Only.setPc (h : Only w s t) (a : Word) : Only w s (t.setPc a) := { h with }

theorem Only.advance (h : Only w s t) : Only w s t.advance := h.setPc _

theorem Only.skipIf (h : Only w s t) : ∀ c : Bool, Only w s (t.skipIf c)
  | true => h.setPc _
  | false => h

theorem Only.setFb (h : Only w s t) (hw : w.fb = true) (fb : Framebuffer) : Only w s (t.setFb fb) :=
  { h with fb := by simp [hw] }

end Sys2Proof.Machine
end

section
/-! CERTIFICATES. Control flow without the stack (40_control_flow R100, R102, R104, R105). -/

namespace Sys2Proof.Machine

variable (s : State)

/-! ### What each instruction answers -/

theorem exec_cls : exec .cls s = .next (s.advance.setFb Framebuffer.blank) := rfl

theorem exec_jp (nnn : Addr12) : exec (.jp nnn) s = .next (s.advance.setPc (zextAddr nnn)) := rfl

theorem exec_seImm (x : Reg) (kk : Byte) : exec (.seImm x kk) s = .next (s.advance.skipIf (s.reg x == kk)) := rfl

theorem exec_sneImm (x : Reg) (kk : Byte) : exec (.sneImm x kk) s = .next (s.advance.skipIf (s.reg x != kk)) := rfl

/-! ### Conditional skips (R109) -/

/-- The two advances of a skip are one of 4. -/
theorem advance_skipIf_pc (c : Bool) : (s.advance.skipIf c).pc = if c then s.pc + 4 else s.pc + 2 := by
  cases c with
  | true => exact BitVec.add_assoc s.pc 2#16 2#16
  | false => rfl

/-- What a skip on `c` does, whatever instruction makes it. -/
theorem skip_on {i : Instr} {s : State} {c : Bool} (h : exec i s = .next (s.advance.skipIf c)) :
    ∃ t, exec i s = .next t ∧ t.pc = (if c then s.pc + 4 else s.pc + 2) ∧ Only {} s t :=
  ⟨_, h, advance_skipIf_pc s c, (Only.refl _ s).advance.skipIf c⟩

/-! ### The statements -/

/-- Settles O23: the blank framebuffer replaces the old one after the advance (R100). -/
theorem clsClearsEveryCell : Obligations.ClsClearsEveryCell := fun s =>
  ⟨_, exec_cls s, Framebuffer.cell_blank, rfl, (Only.refl _ s).advance.setFb rfl _⟩

/-- Settles O28: the address is the jump's 12 bits, extended with zeros (R102). -/
theorem jpJumps : Obligations.JpJumps := fun s nnn =>
  ⟨_, exec_jp s nnn, zextAddr_toNat nnn, (Only.refl _ s).advance.setPc _⟩

/-- Settles O29: both are a skip, SE on equality and SNE on its negation (R104, R105). -/
theorem immediateSkips : Obligations.ImmediateSkips := by
  intro s x kk
  constructor
  · simpa only [beq_iff_eq] using skip_on (exec_seImm s x kk)
  · simpa only [bne_iff_ne, ne_eq, ite_not] using skip_on (exec_sneImm s x kk)

end Sys2Proof.Machine
end

section
/-! CERTIFICATES. The register loads and the immediate add (41_register_alu R120 to R122), on one rule for every
instruction whose only write besides `pc` is one general register. -/

namespace Sys2Proof.Machine

/-- A frame that names `x` allows any write to `V[x]`. -/
theorem Only.setReg {w : Writes} {s t : State} {x : Reg} (h : Only w s t) (hx : x ∈ w.regs) (b : Byte) :
    Only w s (t.setReg x b) :=
  { h with
    regs := fun r hr => by
      have hne : r ≠ x := fun e => hr (e ▸ hx)
      rw [reg_setReg, if_neg hne, h.regs r hr] }

variable (s : State)

/-! ### What each instruction answers -/

theorem exec_ldImm (x : Reg) (kk : Byte) : exec (.ldImm x kk) s = .next (s.advance.setReg x kk) := rfl

theorem exec_addImm (x : Reg) (kk : Byte) : exec (.addImm x kk) s = .next (s.advance.setReg x (s.reg x + kk)) := rfl

theorem exec_ldReg (x y : Reg) : exec (.ldReg x y) s = .next (s.advance.setReg x (s.reg y)) := rfl

/-! ### One register written -/

/-- What writing `b` to `V[x]` after the advance does, whatever instruction does it. -/
theorem setReg_on {i : Instr} {s : State} {x : Reg} {b : Byte} (h : exec i s = .next (s.advance.setReg x b)) :
    ∃ t, exec i s = .next t ∧ t.reg x = b ∧ t.pc = s.pc + 2 ∧ Only { regs := [x] } s t :=
  ⟨_, h, by rw [reg_setReg, if_pos rfl], rfl, (Only.refl _ s).advance.setReg (List.mem_singleton_self x) b⟩

/-! ### The statement -/

/-- Settles O32: each writes one register; the sum's wrap modulo 256 is that of the byte's width (R120 to R122, R131). -/
theorem loadsAndImmediateAdd : Obligations.LoadsAndImmediateAdd := by
  intro s x y kk
  refine ⟨setReg_on (exec_ldImm s x kk), ?_, setReg_on (exec_ldReg s x y)⟩
  obtain ⟨t, hexec, hreg, hpc, honly⟩ := setReg_on (exec_addImm s x kk)
  exact ⟨t, hexec, hreg ▸ BitVec.toNat_add (s.reg x) kk, hpc, honly⟩

end Sys2Proof.Machine
end

section
/-! CERTIFICATES. The load of the index register (42_addressing R150). -/

namespace Sys2Proof.Machine

/-- A frame that names the index register allows any write to it. -/
theorem Only.setI {w : Writes} {s t : State} (h : Only w s t) (hw : w.index = true) (a : Word) : Only w s (t.setI a) :=
  { h with index := by simp [hw] }

theorem exec_ldI (nnn : Addr12) (s : State) : exec (.ldI nnn) s = .next (s.advance.setI (zextAddr nnn)) := rfl

/-- Settles O37: I takes the 12 bits, extended with zeros, after the advance (R150). -/
theorem indexLoad : Obligations.IndexLoad := fun s nnn =>
  ⟨_, exec_ldI nnn s, zextAddr_toNat nnn, rfl, (Only.refl _ s).advance.setI rfl _⟩

end Sys2Proof.Machine
end

section
/-! CERTIFICATES. The wait for a key (44_input R182, R183). -/

namespace Sys2Proof.Machine

variable {s : State}

/-- Re-entering the instruction is no change at all: the step back undoes the advance (R183). -/
theorem advance_setPc_back (s : State) : s.advance.setPc (s.advance.pc - 2#16) = s :=
  congrArg s.setPc (BitVec.add_sub_cancel s.pc 2#16)

/-- A key index fits a byte, so storing it loses nothing. -/
theorem keyByte_toNat (k : Fin 16) : (BitVec.ofNat 8 k.val).toNat = k.val :=
  Nat.mod_eq_of_lt (k.isLt.trans (by decide))

/-! ### What the instruction answers -/

theorem exec_ldKey (x : Reg) (s : State) : exec (.ldKey x) s = execLdKey x s := rfl

theorem exec_ldKey_of_firstKey (x : Reg) {k : Nat} (h : s.firstKey? = some k) :
    exec (.ldKey x) s = .next (s.advance.setReg x (BitVec.ofNat 8 k)) := by
  rw [exec_ldKey, execLdKey, h]

theorem exec_ldKey_of_noKey (x : Reg) (h : ∀ k, s.keyDown k = false) : exec (.ldKey x) s = .next s := by
  rw [exec_ldKey, execLdKey, (firstKey?_none_iff s).mpr h]
  exact congrArg _ (advance_setPc_back s)

/-! ### The statement -/

/-- Settles O47: the lowest pressed key is the one the scan of the keys finds, and its index is the one register
write; with no key pressed the answer is the state itself (R182). -/
theorem waitForKey : Obligations.WaitForKey := by
  intro s x
  refine ⟨fun k hdown hlowest => ?_, exec_ldKey_of_noKey x⟩
  have hfirst : s.firstKey? = some k.val := (firstKey?_some_iff s k.val).mpr ⟨k.isLt, hdown, hlowest⟩
  obtain ⟨t, hexec, hreg, hpc, honly⟩ := setReg_on (exec_ldKey_of_firstKey x hfirst)
  exact ⟨t, hexec, hreg ▸ keyByte_toNat k, hpc, honly⟩

end Sys2Proof.Machine
end

section
/-! CERTIFICATES. The copies between a register and the timers (46_timers R210 to R212). -/

namespace Sys2Proof.Machine

/-- A frame that names the delay timer allows any write to it. -/
theorem Only.setDt {w : Writes} {s t : State} (h : Only w s t) (hw : w.dt = true) (b : Byte) : Only w s (t.setDt b) :=
  { h with dt := by simp [hw] }

/-- A frame that names the sound timer allows any write to it. -/
theorem Only.setSt {w : Writes} {s t : State} (h : Only w s t) (hw : w.st = true) (b : Byte) : Only w s (t.setSt b) :=
  { h with st := by simp [hw] }

variable (s : State)

/-! ### What each instruction answers -/

theorem exec_ldVDt (x : Reg) : exec (.ldVDt x) s = .next (s.advance.setReg x s.dt) := rfl

theorem exec_ldDtV (x : Reg) : exec (.ldDtV x) s = .next (s.advance.setDt (s.reg x)) := rfl

theorem exec_ldStV (x : Reg) : exec (.ldStV x) s = .next (s.advance.setSt (s.reg x)) := rfl

/-! ### The statement -/

/-- Settles O51: Fx07 is one register write, Fx15 and Fx18 are one timer write each, after the advance (R210 to
R212). -/
theorem timerInstructions : Obligations.TimerInstructions := fun s x =>
  ⟨setReg_on (exec_ldVDt s x),
    ⟨_, exec_ldDtV s x, setDt_dt _ _, rfl, (Only.refl _ s).advance.setDt rfl _⟩,
    ⟨_, exec_ldStV s x, setSt_st _ _, rfl, (Only.refl _ s).advance.setSt rfl _⟩⟩

end Sys2Proof.Machine
end

section
/-! CERTIFICATES. The timer step, and the timers along one instruction (60_exceptions R234, 46_timers R210 to R212). -/

namespace Sys2Proof.Machine

variable {s t u : State}

/-! ### The timers along one instruction -/

/-- DT and ST of `t` are those of `s`. -/
def KeepsTimers (s t : State) : Prop := t.dt = s.dt ∧ t.st = s.st

theorem pop?_keepsTimers {w : Word} (h : s.pop? = some (w, t)) : KeepsTimers s t := by
  unfold State.pop? at h
  split at h <;> cases h
  exact ⟨rfl, rfl⟩

theorem push?_keepsTimers {w : Word} (h : s.push? w = some t) : KeepsTimers s t := by
  unfold State.push? at h
  split at h <;> cases h
  exact ⟨rfl, rfl⟩

theorem raise_keepsTimers {i : Instr} {k : FaultKind} {n : Option Nat} (h : raise i k n s = .next u) :
    KeepsTimers s u := by
  cases h
  exact ⟨takeFault_dt .., takeFault_st ..⟩

theorem execRet_keepsTimers (h : execRet s = .next u) : KeepsTimers s u := by
  unfold execRet at h
  split at h
  · exact raise_keepsTimers h
  · next hpop =>
    cases h
    obtain ⟨hdt, hst⟩ := pop?_keepsTimers hpop
    exact ⟨hdt, hst⟩

theorem execCall_keepsTimers {nnn : Addr12} (h : execCall nnn s = .next u) : KeepsTimers s u := by
  unfold execCall at h
  split at h
  · exact raise_keepsTimers h
  · next hpush =>
    cases h
    obtain ⟨hdt, hst⟩ := push?_keepsTimers hpush
    exact ⟨hdt, hst⟩

/-- Everything an instruction can do to the timers: Fx15 copies a register to DT, Fx18 one to ST, and any other
instruction, faulting or not, keeps both. -/
theorem exec_timers_cases {i : Instr} (h : exec i s = .next u) :
    (∃ x, i = .ldDtV x ∧ u.dt = s.reg x ∧ u.st = s.st) ∨ (∃ x, i = .ldStV x ∧ u.st = s.reg x ∧ u.dt = s.dt) ∨
    KeepsTimers s u := by
  cases i with
  | ldDtV x =>
    cases h
    exact .inl ⟨x, rfl, rfl, rfl⟩
  | ldStV x =>
    cases h
    exact .inr (.inl ⟨x, rfl, rfl, rfl⟩)
  | ret => exact .inr (.inr (execRet_keepsTimers h))
  | call nnn => exact .inr (.inr (execCall_keepsTimers h))
  | ldB | storeRegs | loadRegs | skp | sknp | drw | ldKey | jpV0 =>
    -- A check decides between a fault, or Fx0A's wait, and the effect; neither writes a timer.
    simp only [exec, execLdB, execStoreRegs, execLoadRegs, execSkp, execSknp, execDrw, execLdKey, execJpV0] at h
    split at h <;> cases h <;> exact .inr (.inr (by simp [KeepsTimers]))
  | _ =>
    cases h
    exact .inr (.inr (by simp [KeepsTimers]))

/-! ### The timer step -/

theorem transact_tick (s : State) :
    transact .tick s = .next ((s.setDt (countDown s.dt)).setSt (countDown s.st), .toneEnd (s.st == 0x01#8)) := rfl

/-- The tone ends where the sound timer was exactly 1 (R234, R235). -/
theorem tone_iff (b : Byte) : (b == 0x01#8) = true ↔ b.toNat = 1 := by
  rw [beq_iff_eq, ← BitVec.toNat_inj]
  rfl

/-! ### The statement -/

/-- Settles O52: the timer step is one countdown of each timer, with no other write; of the instructions, the case
analysis of the timers leaves Fx15 for a new DT and Fx18 for a new ST (R234). -/
theorem tickCountsDown : Obligations.TickCountsDown := by
  refine fun s => ⟨⟨_, _, transact_tick s, countDown_toNat s.dt, countDown_toNat s.st, tone_iff s.st, rfl,
    ((Only.refl _ s).setDt rfl _).setSt rfl _⟩, fun i u h => ?_⟩
  obtain ⟨x, hi, -, hst⟩ | ⟨x, hi, -, hdt⟩ | ⟨hdt, hst⟩ := exec_timers_cases h
  · exact ⟨fun _ => ⟨x, hi⟩, (absurd hst ·)⟩
  · exact ⟨(absurd hdt ·), fun _ => ⟨x, hi⟩⟩
  · exact ⟨(absurd hdt ·), (absurd hst ·)⟩

end Sys2Proof.Machine
end

section
/-! CERTIFICATES. The encoding (30_encoding R72 to R78): the row a word is decoded to is the row it was encoded from,
and no bit of a word is outside the fields of its format. -/

namespace Sys2Proof

/-! ### Decoding the encoded word -/

/-- The row lookup finds the instruction in its own word, the optional row included. -/
theorem decodeRow_encode (i : Instr) : decodeRow (encode i) = some i := by
  cases i with
  | cls | ret => rfl
  | ldReg | orReg | andReg | xorReg | addReg | subReg | subnReg | shr | shl =>
    simp [encode, decodeRow, decodeClass8]
  | skp | sknp => simp [encode, decodeRow, decodeClassE]
  | addI | ldF | ldB | storeRegs | loadRegs | ldKey | ldVDt | ldDtV | ldStV => simp [encode, decodeRow, decodeClassF]
  | _ => simp [encode, decodeRow]

theorem decode_of_decodeRow {mode : BnnnMode} {op : Word} {i : Instr} (h : decodeRow op = some i)
    (hwf : i.wellFormed mode = true) : decode mode op = .instr i := by
  simp only [decode, h, hwf, if_true]

theorem decode_encode {mode : BnnnMode} {i : Instr} (hwf : i.wellFormed mode = true) :
    decode mode (encode i) = .instr i := decode_of_decodeRow (decodeRow_encode i) hwf

/-- Settles O2: the row lookup finds the instruction in its word, and the two bytes of the word at the front of a byte
string are that word again. -/
theorem decodeOfEncode : Obligations.DecodeOfEncode := fun mode i rest hwf =>
  ⟨decode_encode hwf, by
    simp only [encodeBytes, bytesOfWord, List.cons_append, List.nil_append, decodeBytes, wordOfBytes_bytesOfWord,
      decode_encode hwf]⟩

/-! ### A word put together again from the fields of its format (R72, R73) -/

theorem formFA_of_fields {c : BitVec 4} {nnn : Addr12} {op : Word} (hc : classNibble op = c.toNat)
    (hn : (fieldNnn op).toNat = nnn.toNat) : formFA c nnn = op := by
  rw [formFA, ← BitVec.eq_of_toNat_eq hc, ← BitVec.eq_of_toNat_eq hn]
  exact BitVec.extractLsb'_append_extractLsb' (w := 4) (len := 12)

theorem formFXK_of_fields {c : BitVec 4} {kk : Byte} {op : Word} (hc : classNibble op = c.toNat)
    (hk : (fieldKk op).toNat = kk.toNat) : formFXK c (fieldX op) kk = op := by
  rw [formFXK, ← BitVec.eq_of_toNat_eq hc, ← BitVec.eq_of_toNat_eq hk]
  have hcx : op.extractLsb' 12 4 ++ op.extractLsb' 8 4 = op.extractLsb' 8 8 :=
    BitVec.extractLsb'_append_extractLsb'_eq_extractLsb' rfl
  exact (congrArg (· ++ fieldKk op) hcx).trans (BitVec.extractLsb'_append_extractLsb' (w := 8) (len := 8))

theorem formFXYN_of_fields {c n : BitVec 4} {op : Word} (hc : classNibble op = c.toNat)
    (hn : (fieldN op).val = n.toNat) : formFXYN c (fieldX op) (fieldY op) n = op := by
  have hn : op.extractLsb' 0 4 = n := BitVec.eq_of_toNat_eq hn
  rw [formFXYN, ← BitVec.eq_of_toNat_eq hc, ← hn]
  have hcx : op.extractLsb' 12 4 ++ op.extractLsb' 8 4 = op.extractLsb' 8 8 :=
    BitVec.extractLsb'_append_extractLsb'_eq_extractLsb' rfl
  have hcxy : op.extractLsb' 8 8 ++ op.extractLsb' 4 4 = op.extractLsb' 4 12 :=
    BitVec.extractLsb'_append_extractLsb'_eq_extractLsb' rfl
  exact (congrArg (· ++ op.extractLsb' 4 4 ++ op.extractLsb' 0 4) hcx).trans <|
    (congrArg (· ++ op.extractLsb' 0 4) hcxy).trans (BitVec.extractLsb'_append_extractLsb' (w := 12) (len := 4))

/-! ### Encoding the decoded row -/

theorem encode_of_decodeClass8 {op : Word} {i : Instr} (hc : classNibble op = 8) (h : decodeClass8 op = some i) :
    encode i = op := by
  unfold decodeClass8 at h
  split at h <;> cases h <;> exact formFXYN_of_fields hc ‹_›

theorem encode_of_decodeClassE {op : Word} {i : Instr} (hc : classNibble op = 0xE) (h : decodeClassE op = some i) :
    encode i = op := by
  unfold decodeClassE at h
  split at h <;> cases h <;> exact formFXK_of_fields hc ‹_›

theorem encode_of_decodeClassF {op : Word} {i : Instr} (hc : classNibble op = 0xF) (h : decodeClassF op = some i) :
    encode i = op := by
  unfold decodeClassF at h
  split at h <;> cases h <;> exact formFXK_of_fields hc ‹_›

/-- The row lookup drops no bit of the word. -/
theorem encode_of_decodeRow {op : Word} {i : Instr} (h : decodeRow op = some i) : encode i = op := by
  unfold decodeRow at h
  split at h
  case h_1 hc =>
    split at h <;> cases h
    · next hn => exact formFA_of_fields (c := 0x0#4) (nnn := 0x0E0#12) hc hn
    · next hn => exact formFA_of_fields (c := 0x0#4) (nnn := 0x0EE#12) hc hn
  case h_6 hc | h_10 hc =>
    split at h <;> cases h
    next hn => exact formFXYN_of_fields hc (congrArg Fin.val hn)
  case h_9 hc => exact encode_of_decodeClass8 hc h
  case h_15 hc => exact encode_of_decodeClassE hc h
  case h_16 hc => exact encode_of_decodeClassF hc h
  case h_2 hc | h_3 hc | h_11 hc | h_12 hc =>
    cases h
    exact formFA_of_fields hc rfl
  case h_4 hc | h_5 hc | h_7 hc | h_8 hc | h_13 hc =>
    cases h
    exact formFXK_of_fields hc rfl
  case h_14 hc =>
    cases h
    exact formFXYN_of_fields hc rfl
  case h_17 => cases h

theorem decode_instr_iff {mode : BnnnMode} {op : Word} {i : Instr} :
    decode mode op = .instr i ↔ decodeRow op = some i ∧ i.wellFormed mode = true := by
  refine ⟨fun h => ?_, fun ⟨hrow, hwf⟩ => decode_of_decodeRow hrow hwf⟩
  unfold decode at h
  split at h
  · next hrow =>
    split at h <;> cases h
    next hwf => exact ⟨hrow, hwf⟩
  · cases h

/-- Settles O3: the row lookup drops no bit, and `decode` lets a row through where it is well-formed. -/
theorem encodeOfDecode : Obligations.EncodeOfDecode := by
  intro mode op i h
  obtain ⟨hrow, hwf⟩ := decode_instr_iff.mp h
  exact ⟨encode_of_decodeRow hrow, hwf⟩

/-! ### The rows' masks (R78) -/

/-- Every row fits the words of its instructions. -/
theorem encode_masked : ∀ i, Laws.RowBits.Statement i
  | .cls => Laws.RowBits.cls
  | .ret => Laws.RowBits.ret
  | .jp nnn => Laws.RowBits.jp nnn
  | .call nnn => Laws.RowBits.call nnn
  | .seImm x kk => Laws.RowBits.seImm x kk
  | .sneImm x kk => Laws.RowBits.sneImm x kk
  | .seReg x y => Laws.RowBits.seReg x y
  | .sneReg x y => Laws.RowBits.sneReg x y
  | .ldImm x kk => Laws.RowBits.ldImm x kk
  | .addImm x kk => Laws.RowBits.addImm x kk
  | .ldReg x y => Laws.RowBits.ldReg x y
  | .orReg x y => Laws.RowBits.orReg x y
  | .andReg x y => Laws.RowBits.andReg x y
  | .xorReg x y => Laws.RowBits.xorReg x y
  | .addReg x y => Laws.RowBits.addReg x y
  | .subReg x y => Laws.RowBits.subReg x y
  | .subnReg x y => Laws.RowBits.subnReg x y
  | .shr x y => Laws.RowBits.shr x y
  | .shl x y => Laws.RowBits.shl x y
  | .ldI nnn => Laws.RowBits.ldI nnn
  | .addI x => Laws.RowBits.addI x
  | .ldF x => Laws.RowBits.ldF x
  | .ldB x => Laws.RowBits.ldB x
  | .storeRegs x => Laws.RowBits.storeRegs x
  | .loadRegs x => Laws.RowBits.loadRegs x
  | .rnd x kk => Laws.RowBits.rnd x kk
  | .skp x => Laws.RowBits.skp x
  | .sknp x => Laws.RowBits.sknp x
  | .ldKey x => Laws.RowBits.ldKey x
  | .drw x y n => Laws.RowBits.drw x y n
  | .ldVDt x => Laws.RowBits.ldVDt x
  | .ldDtV x => Laws.RowBits.ldDtV x
  | .ldStV x => Laws.RowBits.ldStV x
  | .jpV0 nnn => Laws.RowBits.jpV0 nnn

/-- A field whose bits a mask keeps has its value in the masked word. -/
theorem field_of_masked {op mask value : Word} (k l : Nat) (hmask : mask.extractLsb' k l = BitVec.allOnes l)
    (h : op &&& mask = value) : op.extractLsb' k l = value.extractLsb' k l := by
  rw [← h, BitVec.extractLsb'_and, hmask, BitVec.and_allOnes]

/-- Every mask keeps the class. -/
theorem classNibble_of_masked {op : Word} {i : Instr} (h : op &&& rowMask i = rowMatch i) :
    classNibble op = ((rowMatch i).extractLsb' 12 4).toNat := by
  refine congrArg BitVec.toNat (field_of_masked 12 4 ?_ h)
  cases i <;> rw [rowMask] <;> rfl

theorem fieldN_of_masked {op value : Word} (h : op &&& 0xF00F#16 = value) :
    fieldN op = (value.extractLsb' 0 4).toFin :=
  congrArg BitVec.toFin (field_of_masked 0 4 (by decide) h)

theorem fieldKk_of_masked {op value : Word} (h : op &&& 0xF0FF#16 = value) : fieldKk op = value.extractLsb' 0 8 :=
  field_of_masked 0 8 (by decide) h

/-- A word that fits a row is decoded to an instruction of that row: the fixed fields of the row are the ones the
lookup tests. -/
theorem decodeRow_of_masked {op : Word} {i : Instr} (h : op &&& rowMask i = rowMatch i) :
    ∃ j, decodeRow op = some j ∧ rowMatch j = rowMatch i ∧ rowMask j = rowMask i := by
  have hc := classNibble_of_masked h
  cases i with
  | cls | ret =>
    obtain rfl : op = _ := (BitVec.and_allOnes (x := op)).symm.trans h
    exact ⟨_, rfl, rfl, rfl⟩
  | jp | call | seImm | sneImm | ldImm | addImm | ldI | rnd | drw | jpV0 =>
    simp [rowMatch] at hc
    simpa [decodeRow, hc] using ⟨rfl, rfl⟩
  | seReg | sneReg =>
    have hn := fieldN_of_masked h
    simp [rowMatch] at hc hn
    simpa [decodeRow, hc, hn] using ⟨rfl, rfl⟩
  | ldReg | orReg | andReg | xorReg | addReg | subReg | subnReg | shr | shl =>
    have hn := fieldN_of_masked h
    simp [rowMatch] at hc hn
    simpa [decodeRow, decodeClass8, hc, hn] using ⟨rfl, rfl⟩
  | skp | sknp =>
    have hk := fieldKk_of_masked h
    simp [rowMatch] at hc hk
    simpa [decodeRow, decodeClassE, hc, hk] using ⟨rfl, rfl⟩
  | addI | ldF | ldB | storeRegs | loadRegs | ldKey | ldVDt | ldDtV | ldStV =>
    have hk := fieldKk_of_masked h
    simp [rowMatch] at hc hk
    simpa [decodeRow, decodeClassF, hc, hk] using ⟨rfl, rfl⟩

/-- Settles O5: a decoded word is the encoding of its instruction, which fits its row; and the lookup tests the fixed
fields of each row. -/
theorem decodeFindsTheOneRow : Obligations.DecodeFindsTheOneRow := fun _ =>
  ⟨fun i h => encode_of_decodeRow h ▸ encode_masked i, fun _ => decodeRow_of_masked⟩

end Sys2Proof
end

section
/-! CERTIFICATES. The illegal words (30_encoding R76), in the numbers of a word's fields. -/

namespace Sys2Proof

/-! ### The fields as numbers (R72) -/

theorem extractLsb'_eq_div_mod (op : Word) (k l : Nat) : (op.extractLsb' k l).toNat = op.toNat / 2 ^ k % 2 ^ l := by
  rw [BitVec.extractLsb'_toNat, Nat.shiftRight_eq_div_pow]

theorem classNibble_eq (op : Word) : classNibble op = op.toNat / 0x1000 :=
  (extractLsb'_eq_div_mod op 12 4).trans (Nat.mod_eq_of_lt (by have := op.isLt; omega))

theorem fieldN_val (op : Word) : (fieldN op).val = op.toNat % 0x10 :=
  (extractLsb'_eq_div_mod op 0 4).trans (congrArg (· % _) (Nat.div_one _))

theorem fieldKk_toNat (op : Word) : (fieldKk op).toNat = op.toNat % 0x100 :=
  (extractLsb'_eq_div_mod op 0 8).trans (congrArg (· % _) (Nat.div_one _))

theorem fieldNnn_toNat (op : Word) : (fieldNnn op).toNat = op.toNat % 0x1000 :=
  (extractLsb'_eq_div_mod op 0 12).trans (congrArg (· % _) (Nat.div_one _))

/-! ### The words of no row, class by class -/

theorem decodeClass8_none_iff (op : Word) :
    decodeClass8 op = none ↔ op.toNat % 0x10 ∈ [0x8, 0x9, 0xA, 0xB, 0xC, 0xD, 0xF] := by
  have := Nat.mod_lt op.toNat (y := 0x10) (by decide)
  unfold decodeClass8
  rw [fieldN_val]
  generalize op.toNat % 0x10 = n at *
  split
  case h_10 =>
    simp only [imp_false] at *
    simp only [List.mem_cons, List.not_mem_nil, or_false, true_iff]
    omega
  all_goals simp

theorem decodeClassE_none_iff (op : Word) : decodeClassE op = none ↔ op.toNat % 0x100 ∉ [0x9E, 0xA1] := by
  unfold decodeClassE
  rw [fieldKk_toNat]
  split <;> simp_all

theorem decodeClassF_none_iff (op : Word) :
    decodeClassF op = none ↔ op.toNat % 0x100 ∉ [0x07, 0x0A, 0x15, 0x18, 0x1E, 0x29, 0x33, 0x55, 0x65] := by
  unfold decodeClassF
  rw [fieldKk_toNat]
  split <;> simp_all

/-- The words of no row: those of R76's table without its line for class B. -/
theorem decodeRow_none_iff (op : Word) : decodeRow op = none ↔
    (op.toNat / 0x1000 = 0 ∧ op.toNat ≠ 0x00E0 ∧ op.toNat ≠ 0x00EE) ∨
    (op.toNat / 0x1000 = 5 ∧ op.toNat % 0x10 ≠ 0) ∨
    (op.toNat / 0x1000 = 8 ∧ decodeClass8 op = none) ∨
    (op.toNat / 0x1000 = 9 ∧ op.toNat % 0x10 ≠ 0) ∨
    (op.toNat / 0x1000 = 0xE ∧ decodeClassE op = none) ∨
    (op.toNat / 0x1000 = 0xF ∧ decodeClassF op = none) := by
  have hlt := op.isLt
  unfold decodeRow
  rw [classNibble_eq]
  split
  case h_1 hc =>
    rw [fieldNnn_toNat]
    split <;> simp_all <;> omega
  case h_6 hc | h_10 hc => simp [hc, Fin.ext_iff, fieldN_val]
  case h_17 =>
    exfalso
    simp only [imp_false] at *
    omega
  all_goals
    next hc => simp [hc]

/-- The optional row alone can be ill-formed. -/
theorem wellFormed_false_iff {mode : BnnnMode} {i : Instr} :
    i.wellFormed mode = false ↔ (∃ nnn, i = .jpV0 nnn) ∧ mode = .invalid := by
  cases i <;> cases mode <;> simp [Instr.wellFormed]

theorem decode_rejected_iff (mode : BnnnMode) (op : Word) :
    (∃ why, decode mode op = .rejected why) ↔
      decodeRow op = none ∨ (op.toNat / 0x1000 = 0xB ∧ mode = .invalid) := by
  unfold decode
  split
  · next i hrow =>
    have hclass : (∃ nnn, i = .jpV0 nnn) ↔ op.toNat / 0x1000 = 0xB := by
      rw [← classNibble_eq]
      constructor
      · rintro ⟨nnn, rfl⟩
        exact encode_of_decodeRow hrow ▸ classNibble_formFA 0xB#4 nnn
      · intro hc
        simp only [decodeRow, hc] at hrow
        cases hrow
        exact ⟨_, rfl⟩
    cases hwf : i.wellFormed mode with
    | false => simp [hrow, ← hclass, wellFormed_false_iff.mp hwf]
    | true =>
      simp only [hrow, ← hclass, ← wellFormed_false_iff, hwf]
      simp
  · next hrow => simp [hrow]

/-- Settles O4: the words of no row are those of R76's table, and a word of the optional row is rejected where the mode
turns it off. -/
theorem illegalWordsAreRejected : Obligations.IllegalWordsAreRejected := by
  intro mode op
  rw [decode_rejected_iff, decodeRow_none_iff, decodeClass8_none_iff, decodeClassE_none_iff, decodeClassF_none_iff]
  simp only [or_comm, or_left_comm]

/-- Settles O1: each word is decoded by evaluation. -/
theorem sampleWordsDecode : Obligations.SampleWordsDecode := by
  unfold Obligations.SampleWordsDecode
  decide

end Sys2Proof
end

section
/-! CERTIFICATES. Control flow with the stack, the register skips and the jump with offset (40_control_flow R101, R103,
R106 to R108). -/

namespace Sys2Proof.Machine

/-- A frame that names the stack allows any write to the entries and `sp`. -/
theorem Only.setStack {w : Writes} {s t : State} (h : Only w s t) (hw : w.stack = true) (entries : Vector Word 16)
    (sp : Fin 17) : Only w s { t with stack := entries, sp := sp } :=
  { h with stack := by simp [hw] }

variable (s : State)

/-! ### What each instruction answers -/

theorem exec_ret (h : s.sp.val ≠ 0) : exec .ret s =
    .next ({ s.advance with sp := ⟨s.sp.val - 1, by omega⟩ }.setPc (s.stack[s.sp.val - 1]'(by omega))) := by
  rw [exec, execRet, pop?_some s.advance h]
  rfl

theorem exec_ret_empty (h : s.sp.val = 0) :
    exec .ret s = .next (s.faultedWith .stackUnderflow 4 (some (encode .ret)) none) := by
  rw [exec, execRet, pop?_empty s.advance (Fin.ext h)]
  rfl

theorem exec_call (nnn : Addr12) (h : s.sp.val < 16) : exec (.call nnn) s =
    .next ({ s.advance with stack := s.stack.set s.sp.val (s.pc + 2) h, sp := ⟨s.sp.val + 1, by omega⟩ }.setPc
      (zextAddr nnn)) := by
  rw [exec, execCall, push?_some s.advance _ h]
  rfl

theorem exec_call_full (nnn : Addr12) (h : s.sp.val = 16) :
    exec (.call nnn) s = .next (s.faultedWith .stackOverflow 3 (some (encode (.call nnn))) none) := by
  rw [exec, execCall, push?_full s.advance _ (Fin.ext h)]
  rfl

theorem exec_seReg (x y : Reg) : exec (.seReg x y) s = .next (s.advance.skipIf (s.reg x == s.reg y)) := rfl

theorem exec_sneReg (x y : Reg) : exec (.sneReg x y) s = .next (s.advance.skipIf (s.reg x != s.reg y)) := rfl

theorem exec_jpV0 (nnn : Addr12) (h : s.params.bnnnMode = .jumpV0) :
    exec (.jpV0 nnn) s = .next (s.advance.setPc (zextAddr nnn + zextByte (s.reg 0))) := by
  rw [exec, execJpV0, h]

theorem exec_jpV0_invalid (nnn : Addr12) (h : s.params.bnnnMode = .invalid) :
    exec (.jpV0 nnn) s = .next (s.faultedWith .invalidInstruction 1 (some (encode (.jpV0 nnn))) none) := by
  rw [exec, execJpV0, h]
  rfl

/-- The sum of an address field and a byte does not wrap at 16 bits (R108). -/
theorem jumpOffset_toNat (nnn : Addr12) (b : Byte) : (zextAddr nnn + zextByte b).toNat = nnn.toNat + b.toNat := by
  rw [BitVec.toNat_add_of_lt] <;> rw [zextAddr_toNat, zextByte_toNat]
  have := nnn.isLt
  have := b.isLt
  omega

/-! ### The statements -/

/-- Settles O24: the popped entry is the one below `sp`, and stays in place (R101, R42). -/
theorem retPops : Obligations.RetPops := fun s h =>
  ⟨_, exec_ret s (by omega), Nat.sub_add_cancel h, Vector.getElem?_eq_getElem _, rfl,
    ((Only.refl _ s).advance.setStack rfl _ _).setPc _⟩

/-- Settles O25: the push writes the one entry at `sp` (R103). -/
theorem callPushes : Obligations.CallPushes := fun s nnn h =>
  ⟨_, exec_call s nnn h, rfl, Vector.getElem?_set_self h, fun _ hk => Vector.getElem?_set_ne h hk.symm,
    zextAddr_toNat nnn, ((Only.refl _ s).advance.setStack rfl _ _).setPc _⟩

/-- Settles O26: a full stack takes no push and an empty one no pop (R222, R223). -/
theorem stackFaults : Obligations.StackFaults := fun s => ⟨fun h nnn => exec_call_full s nnn h, exec_ret_empty s⟩

/-- Settles O27: RET pops the entry CALL has pushed (R101, R103). -/
theorem retResumesAfterCall : Obligations.RetResumesAfterCall := by
  intro s nnn h
  obtain ⟨t, hcall, hsp, hpushed, -⟩ := callPushes s nnn h
  refine ⟨t, hcall, fun t' hstack' hsp' => ?_⟩
  obtain ⟨u, hret, husp, hpopped, -⟩ := retPops t' (by omega)
  have hback : u.sp.val = s.sp.val := by rw [hsp'] at husp; omega
  rw [hback, hstack', hpushed] at hpopped
  exact ⟨u, hret, (Option.some.inj hpopped).symm, Fin.ext hback⟩

/-- Settles O30: both are a skip, SE on equality and SNE on its negation (R106, R107). -/
theorem registerSkips : Obligations.RegisterSkips := by
  intro s x y
  constructor
  · simpa only [beq_iff_eq] using skip_on (exec_seReg s x y)
  · simpa only [bne_iff_ne, ne_eq, ite_not] using skip_on (exec_sneReg s x y)

/-- Settles O31: the mode decides between the jump, whose sum does not wrap, and the fault (R108). -/
theorem jpV0InEachMode : Obligations.JpV0InEachMode := fun s nnn =>
  ⟨fun h => ⟨_, exec_jpV0 s nnn h, jumpOffset_toNat nnn (s.reg 0), (Only.refl _ s).advance.setPc _⟩,
    exec_jpV0_invalid s nnn⟩

end Sys2Proof.Machine
end

section
/-! CERTIFICATES. The bitwise operations and the arithmetic with flag (41_register_alu R123 to R130), on one rule for
every instruction that writes a result and then VF (R132). -/

namespace Sys2Proof.Machine

variable (s : State)

/-! ### What each instruction answers -/

theorem exec_orReg (x y : Reg) : exec (.orReg x y) s = .next (s.advance.setReg x (s.reg x ||| s.reg y)) := rfl

theorem exec_andReg (x y : Reg) : exec (.andReg x y) s = .next (s.advance.setReg x (s.reg x &&& s.reg y)) := rfl

theorem exec_xorReg (x y : Reg) : exec (.xorReg x y) s = .next (s.advance.setReg x (s.reg x ^^^ s.reg y)) := rfl

theorem exec_addReg (x y : Reg) : exec (.addReg x y) s =
    .next (s.advance.setResultAndFlag x (s.reg x + s.reg y) (carry (s.reg x) (s.reg y))) := rfl

theorem exec_subReg (x y : Reg) : exec (.subReg x y) s =
    .next (s.advance.setResultAndFlag x (s.reg x - s.reg y) (noBorrow (s.reg x) (s.reg y))) := rfl

theorem exec_subnReg (x y : Reg) : exec (.subnReg x y) s =
    .next (s.advance.setResultAndFlag x (s.reg y - s.reg x) (noBorrow (s.reg y) (s.reg x))) := rfl

theorem exec_shr (x y : Reg) : exec (.shr x y) s =
    .next (s.advance.setResultAndFlag x (s.reg x >>> 1) (bitOutRight (s.reg x))) := rfl

theorem exec_shl (x y : Reg) : exec (.shl x y) s =
    .next (s.advance.setResultAndFlag x (s.reg x <<< 1) (bitOutLeft (s.reg x))) := rfl

/-! ### A result, then the flag (R132) -/

/-- A frame that names VF allows any flag. -/
theorem Only.setFlag {w : Writes} {s t : State} (h : Only w s t) (hw : flagReg ∈ w.regs) (c : Bool) :
    Only w s (t.setFlag c) := h.setReg hw _

theorem Only.setResultAndFlag {w : Writes} {s t : State} {x : Reg} (h : Only w s t) (hx : x ∈ w.regs)
    (hw : flagReg ∈ w.regs) (b : Byte) (c : Bool) : Only w s (t.setResultAndFlag x b c) :=
  (h.setReg hx b).setFlag hw c

/-- What a result and a flag after the advance do, whatever instruction writes them. -/
theorem resultAndFlag_on {i : Instr} {s : State} {x : Reg} {b : Byte} {c : Bool}
    (h : exec i s = .next (s.advance.setResultAndFlag x b c)) :
    ∃ t, exec i s = .next t ∧ (x ≠ 0xF → t.reg x = b) ∧ t.reg 0xF = flagByte c ∧ t.pc = s.pc + 2 ∧
      Only { regs := [x, 0xF] } s t :=
  ⟨_, h, fun hx => (reg_setResultAndFlag ..).trans ((if_neg hx).trans (if_pos rfl)),
    (reg_setResultAndFlag ..).trans (if_pos rfl), rfl,
    (Only.refl _ s).advance.setResultAndFlag (by simp) (by simp [flagReg]) b c⟩

theorem flagByte_toNat (c : Bool) : (flagByte c).toNat = if c then 1 else 0 := by cases c <;> rfl

/-! ### The values in numbers -/

theorem carry_toNat (a b : Byte) : (flagByte (carry a b)).toNat = if a.toNat + b.toNat > 255 then 1 else 0 := by
  simp only [flagByte_toNat, carry_iff]

theorem noBorrow_toNat (a b : Byte) : (flagByte (noBorrow a b)).toNat = if a.toNat ≥ b.toNat then 1 else 0 := by
  simp only [flagByte_toNat, noBorrow_iff]

theorem byte_sub_toNat (a b : Byte) : (a - b).toNat = (a.toNat + 256 - b.toNat) % 256 := by
  have := b.isLt
  rw [BitVec.toNat_sub]
  congr 1
  omega

theorem byte_shiftRight_toNat (a : Byte) : (a >>> 1).toNat = a.toNat / 2 := by
  rw [BitVec.toNat_ushiftRight, Nat.shiftRight_eq_div_pow, Nat.pow_one]

theorem byte_shiftLeft_toNat (a : Byte) : (a <<< 1).toNat = a.toNat * 2 % 256 := by
  rw [BitVec.toNat_shiftLeft, Nat.shiftLeft_eq, Nat.pow_one]

theorem bitOutRight_toNat (a : Byte) : (flagByte (bitOutRight a)).toNat = a.toNat % 2 := by
  have h : bitOutRight a = decide (a.toNat % 2 = 1) := by
    rw [bitOutRight, ← BitVec.testBit_toNat, Nat.testBit_zero]
  simp only [flagByte_toNat, h, decide_eq_true_eq]
  split <;> omega

theorem bitOutLeft_toNat (a : Byte) : (flagByte (bitOutLeft a)).toNat = a.toNat / 128 := by
  have h : bitOutLeft a = decide (a.toNat / 128 % 2 = 1) := by
    rw [bitOutLeft, ← BitVec.testBit_toNat, Nat.testBit_eq_decide_div_mod_eq]
  have := a.isLt
  simp only [flagByte_toNat, h, decide_eq_true_eq]
  split <;> omega

/-! ### The statements -/

/-- Settles O33: each is one register write, and its bits are those of the operation on bytes (R123 to R125). -/
theorem bitwiseOperations : Obligations.BitwiseOperations := by
  intro s x y
  refine ⟨?_, ?_, ?_⟩
  · obtain ⟨t, hexec, hreg, hframe⟩ := setReg_on (exec_orReg s x y)
    exact ⟨t, hexec, fun k _ => by rw [hreg, BitVec.getLsbD_or], hframe⟩
  · obtain ⟨t, hexec, hreg, hframe⟩ := setReg_on (exec_andReg s x y)
    exact ⟨t, hexec, fun k _ => by rw [hreg, BitVec.getLsbD_and], hframe⟩
  · obtain ⟨t, hexec, hreg, hframe⟩ := setReg_on (exec_xorReg s x y)
    exact ⟨t, hexec, fun k _ => by rw [hreg, BitVec.getLsbD_xor], hframe⟩

/-- Settles O34: the sum wraps at the byte's width, and the carry is written after it (R126). -/
theorem addWithCarry : Obligations.AddWithCarry := by
  intro s x y
  obtain ⟨t, hexec, hreg, hflag, hframe⟩ := resultAndFlag_on (exec_addReg s x y)
  exact ⟨t, hexec, fun hx => hreg hx ▸ BitVec.toNat_add _ _, hflag ▸ carry_toNat _ _, hframe⟩

/-- Settles O35: the difference wraps at the byte's width, and NOT borrow is written after it (R127, R128). -/
theorem subtractWithBorrow : Obligations.SubtractWithBorrow := by
  intro s x y
  constructor
  · obtain ⟨t, hexec, hreg, hflag, hframe⟩ := resultAndFlag_on (exec_subReg s x y)
    exact ⟨t, hexec, fun hx => hreg hx ▸ byte_sub_toNat _ _, hflag ▸ noBorrow_toNat _ _, hframe⟩
  · obtain ⟨t, hexec, hreg, hflag, hframe⟩ := resultAndFlag_on (exec_subnReg s x y)
    exact ⟨t, hexec, fun hx => hreg hx ▸ byte_sub_toNat _ _, hflag ▸ noBorrow_toNat _ _, hframe⟩

/-- Settles O36: a shift by one halves or doubles, the bit shifted out is written after it, and `y` is not read (R129,
R130). -/
theorem shiftsByOne : Obligations.ShiftsByOne := by
  intro s x y
  refine ⟨?_, ?_, fun z => ⟨rfl, rfl⟩⟩
  · obtain ⟨t, hexec, hreg, hflag, hframe⟩ := resultAndFlag_on (exec_shr s x y)
    exact ⟨t, hexec, fun hx => hreg hx ▸ byte_shiftRight_toNat _, hflag ▸ bitOutRight_toNat _, hframe⟩
  · obtain ⟨t, hexec, hreg, hflag, hframe⟩ := resultAndFlag_on (exec_shl s x y)
    exact ⟨t, hexec, fun hx => hreg hx ▸ byte_shiftLeft_toNat _, hflag ▸ bitOutLeft_toNat _, hframe⟩

end Sys2Proof.Machine
end

section
/-! CERTIFICATES. The index register: the sum and the glyph address (42_addressing R151, R152). -/

namespace Sys2Proof.Machine

variable (s : State)

theorem exec_addI (x : Reg) : exec (.addI x) s = .next (s.advance.setI (s.i + zextByte (s.reg x))) := rfl

theorem exec_ldF (x : Reg) :
    exec (.ldF x) s = .next (s.advance.setI (glyphAddress s.params.fontDigitMode (s.reg x))) := rfl

/-- Five times a byte does not wrap at 16 bits. -/
theorem glyphAddress_toNat (mode : FontDigitMode) (b : Byte) :
    (glyphAddress mode b).toNat = (fontDigit mode b).toNat * 5 := by
  have := (fontDigit mode b).isLt
  rw [glyphAddress, BitVec.toNat_mul, zextByte_toNat]
  exact Nat.mod_eq_of_lt (by change _ * 5 < _; omega)

/-- The low nibble of a byte is its remainder by 16. -/
theorem fontDigit_lowNibble_toNat (b : Byte) : (fontDigit .lowNibble b).toNat = b.toNat % 16 :=
  (BitVec.toNat_and b 0x0F#8).trans (Nat.and_two_pow_sub_one_eq_mod b.toNat 4)

/-- Settles O38: the sum of 16 bits is taken modulo 65536 and written to I alone (R151). -/
theorem indexAdd : Obligations.IndexAdd := fun s x =>
  ⟨_, exec_addI s x, (BitVec.toNat_add _ _).trans (by rw [zextByte_toNat]), rfl, (Only.refl _ s).advance.setI rfl _⟩

/-- Settles O39: the mode picks the digit, and its glyph is at five times the digit (R152). -/
theorem glyphAddressInEachMode : Obligations.GlyphAddress := fun s x =>
  ⟨_, exec_ldF s x, fun h => h ▸ glyphAddress_toNat _ _,
    fun h => h ▸ (glyphAddress_toNat _ _).trans (congrArg (· * 5) (fontDigit_lowNibble_toNat _)), rfl,
    (Only.refl _ s).advance.setI rfl _⟩

end Sys2Proof.Machine
end

section
/-! CERTIFICATES. The instructions that access memory at I (42_addressing R153 to R155): their effects within memory and
the one fault outside it (20_memory R54). -/

namespace Sys2Proof.Machine

/-! ### Block writes and block loads -/

/-- A byte of a block write that lies in memory, at its place in the block. -/
theorem readByte_writeBytes_inside (s : State) {a : Nat} {bs : List Byte} (h : a + bs.length ≤ lastAddress + 1)
    {k : Nat} (hk : k < bs.length) : (s.writeBytes a bs).readByte (a + k) = bs[k] := by
  rw [readByte_writeBytes s a bs h, dif_pos (by omega)]
  simp only [Nat.add_sub_cancel_left]

/-- A frame that names the block's range allows the block write. -/
theorem Only.writeBytes {w : Writes} {s t : State} (h : Only w s t) {bs : List Byte} (hlen : w.bytes = bs.length)
    (hmem : w.base + bs.length ≤ lastAddress + 1) : Only w s (t.writeBytes w.base bs) where
  regs r hr := (writeBytes_reg ..).trans (h.regs r hr)
  bytes a ha := by rw [readByte_writeBytes _ _ _ hmem, dif_neg (hlen ▸ ha), h.bytes a ha]
  index hw := (writeBytes_i ..).trans (h.index hw)
  stack hw := by rw [writeBytes_stack, writeBytes_sp]; exact h.stack hw
  dt hw := (writeBytes_dt ..).trans (h.dt hw)
  st hw := (writeBytes_st ..).trans (h.st hw)
  fb hw p := (writeBytes_cell ..).trans (h.fb hw p)
  random hw := by rw [writeBytes_randomIn, writeBytes_draws]; exact h.random hw
  key k := (writeBytes_keyDown ..).trans (h.key k)
  status := (writeBytes_status ..).trans h.status
  params := (writeBytes_params ..).trans h.params

/-- A frame that names the first `n` registers allows a block load of them. -/
theorem Only.loadRegsFrom {w : Writes} {s t : State} (h : Only w s t) {n : Nat} (hw : ∀ r : Reg, r.val < n → r ∈ w.regs)
    (a : Nat) : Only w s (t.loadRegsFrom a n) :=
  { h with
    regs := fun r hr => by rw [reg_loadRegsFrom, if_neg (fun hlt => hr (hw r hlt)), h.regs r hr] }

variable {s : State}

/-! ### What each instruction answers -/

theorem exec_ldB (x : Reg) (h : s.inMemory 3) :
    exec (.ldB x) s = .next (s.advance.writeBytes s.i.toNat (bcdDigits (s.reg x))) := by
  rw [exec, execLdB, dataFault?_of_inMemory h]

theorem exec_storeRegs (x : Reg) (h : s.inMemory (x.val + 1)) :
    exec (.storeRegs x) s = .next (s.advance.writeBytes s.i.toNat (s.firstRegs x)) := by
  rw [exec, execStoreRegs, dataFault?_of_inMemory h]

theorem exec_loadRegs (x : Reg) (h : s.inMemory (x.val + 1)) :
    exec (.loadRegs x) s = .next (s.advance.loadRegsFrom s.i.toNat (x.val + 1)) := by
  rw [exec, execLoadRegs, dataFault?_of_inMemory h]

/-! ### The statements -/

/-- Settles O40: the block written is the three digits, each below ten (R153). -/
theorem bcdStoresThreeDigits : Obligations.BcdStoresThreeDigits := by
  intro s x h
  have hmem : s.i.toNat + (bcdDigits (s.reg x)).length ≤ lastAddress + 1 := inMemory_le h (Nat.succ_pos 2)
  have hbyte {k : Nat} (hk : k < 3) := readByte_writeBytes_inside s.advance hmem hk
  have := (s.reg x).isLt
  refine ⟨_, exec_ldB x h, ?_, ?_, ?_, writeBytes_pc .., (Only.refl _ s).advance.writeBytes rfl hmem⟩
  · exact (congrArg BitVec.toNat (hbyte (k := 0) (by decide))).trans (Nat.mod_eq_of_lt (by omega))
  · exact (congrArg BitVec.toNat (hbyte (k := 1) (by decide))).trans (Nat.mod_eq_of_lt (by omega))
  · exact (congrArg BitVec.toNat (hbyte (k := 2) (by decide))).trans (Nat.mod_eq_of_lt (by omega))

/-- Settles O41: the store is one block write of V[0] to V[x], the load one block load of them (R154, R155). -/
theorem blockTransfers : Obligations.BlockTransfers := by
  intro s x h
  have hmem : s.i.toNat + (s.firstRegs x).length ≤ lastAddress + 1 := by
    rw [firstRegs_length]
    exact inMemory_le h (Nat.succ_pos _)
  constructor
  · refine ⟨_, exec_storeRegs x h, fun k hk => ?_, writeBytes_pc ..,
      (Only.refl _ s).advance.writeBytes (firstRegs_length s x).symm hmem⟩
    have hlen : k.val < (s.firstRegs x).length := by rw [firstRegs_length]; exact Nat.lt_succ_of_le hk
    rw [readByte_writeBytes_inside s.advance hmem hlen, firstRegs_getElem s x k.val hlen k.isLt]
  · refine ⟨_, exec_loadRegs x h, fun k hk => ?_, rfl, (Only.refl _ s).advance.loadRegsFrom (fun r hr => ?_) _⟩
    · rw [reg_loadRegsFrom, if_pos (Nat.lt_succ_of_le hk), advance_readByte]
    · exact List.mem_filter.mpr ⟨List.mem_finRange r, decide_eq_true (Nat.le_of_lt_succ hr)⟩

/-- Settles O42: I stays, so the load reads the very bytes the store wrote. -/
theorem loadAfterStoreRestores : Obligations.LoadAfterStoreRestores := by
  intro s x h
  obtain ⟨t, hstore, hbytes, -, hframe⟩ := (blockTransfers s x h).1
  have hi : t.i = s.i := hframe.index rfl
  refine ⟨t, hstore, fun v => ?_⟩
  have hmem : ({ t with v := v } : State).inMemory (x.val + 1) := fun k hk => by
    rw [show ({ t with v := v } : State).i = s.i from hi]
    exact h k hk
  obtain ⟨u, hload, hregs, -⟩ := (blockTransfers { t with v := v } x hmem).2
  refine ⟨u, hload, fun k hk => (hregs k hk).trans ?_⟩
  rw [← hbytes k hk, ← hi]
  rfl

/-- Settles O43: the range check comes first in each of the four instructions that access memory; any other instruction
accesses no byte (R53, R54). -/
theorem dataRangeFaults : Obligations.DataRangeFaults := by
  intro i s h
  have hfault := dataFault?_of_not_inMemory h
  cases i with
  | ldB | storeRegs | loadRegs | drw =>
    simp only [accessLength] at hfault
    simp only [exec, execLdB, execStoreRegs, execLoadRegs, execDrw, hfault]
    rfl
  | _ => exact absurd (inMemory_zero s) h

end Sys2Proof.Machine
end

section
/-! CERTIFICATES. The random byte and the keypad (43_random R170, 44_input R180, R181, R183). -/

namespace Sys2Proof.Machine

/-- A frame that names the random port allows a draw. -/
theorem Only.drawRandom {w : Writes} {s t : State} (h : Only w s t) (hw : w.random = true) : Only w s t.drawRandom :=
  { h with random := by simp [hw] }

variable {s : State}

/-! ### What each instruction answers -/

theorem exec_rnd (x : Reg) (kk : Byte) (s : State) :
    exec (.rnd x kk) s = .next (s.advance.drawRandom.setReg x (s.nextRandom &&& kk)) := rfl

theorem keyIndex?_of_toNat {b : Byte} {k : Fin 16} (h : b.toNat = k.val) : keyIndex? b = some k := by
  rw [keyIndex?_some (h ▸ k.isLt)]
  exact congrArg some (Fin.ext h)

theorem exec_skp (x : Reg) {k : Fin 16} (h : (s.reg x).toNat = k.val) :
    exec (.skp x) s = .next (s.advance.skipIf (s.keyDown k)) := by
  rw [exec, execSkp, keyIndex?_of_toNat h]

theorem exec_sknp (x : Reg) {k : Fin 16} (h : (s.reg x).toNat = k.val) :
    exec (.sknp x) s = .next (s.advance.skipIf (!s.keyDown k)) := by
  rw [exec, execSknp, keyIndex?_of_toNat h]

/-! ### The statements -/

/-- Settles O44: one byte is taken from the port, masked and written to one register (R170, R171). -/
theorem rndMasksOneByte : Obligations.RndMasksOneByte := by
  intro s x kk
  have hreg : (s.advance.drawRandom.setReg x (s.nextRandom &&& kk)).reg x = s.nextRandom &&& kk :=
    (reg_setReg ..).trans (if_pos rfl)
  refine ⟨_, exec_rnd x kk s, fun b rest hin => ⟨hreg.trans ?_, congrArg List.tail hin⟩,
    fun hin => ⟨hreg.trans ?_, congrArg List.tail hin⟩, rfl, rfl,
    ((Only.refl _ s).advance.drawRandom rfl).setReg (List.mem_singleton_self x) _⟩
  · rw [State.nextRandom, hin, List.headD_cons]
  · rw [State.nextRandom, hin, List.headD_nil]

/-- Settles O45: both are a skip, SKP where the named key is down and SKNP where it is not (R180, R181). -/
theorem keySkips : Obligations.KeySkips := by
  intro s x k h
  constructor
  · exact skip_on (exec_skp x h)
  · simpa only [Bool.not_eq_true', ← Bool.not_eq_true, ite_not] using skip_on (exec_sknp x h)

/-- Settles O46: a value above 15 names no key (R225). -/
theorem keyIndexFaults : Obligations.KeyIndexFaults := by
  intro s x h
  constructor
  · rw [exec, execSkp, keyIndex?_none h]
    rfl
  · rw [exec, execSknp, keyIndex?_none h]
    rfl

end Sys2Proof.Machine
end

section
/-! CERTIFICATES. The sprite draw (45_display R190 to R193). -/

namespace Sys2Proof.Machine

variable {s t : State}

/-- The state after a draw within memory. -/
def State.afterDraw (s : State) (x y : Reg) (n : Fin 16) : State :=
  (s.advance.setFb (drawPixels (s.sprite x y n) (s.fb, false)).1).setFlag (drawPixels (s.sprite x y n) (s.fb, false)).2

theorem exec_drw (x y : Reg) {n : Fin 16} (h : s.inMemory n.val) :
    exec (.drw x y n) s = .next (s.afterDraw x y n) := by
  rw [exec, execDrw, dataFault?_of_inMemory h]
  rfl

theorem afterDraw_only (s : State) (x y : Reg) (n : Fin 16) :
    Only { regs := [0xF], fb := true } s (s.afterDraw x y n) :=
  ((Only.refl _ s).advance.setFb rfl _).setFlag (List.mem_singleton_self _) _

/-! ### The cells and the collision -/

theorem afterDraw_cell_covered {x y : Reg} {n : Fin 16} {p : Pixel} (h : s.covers x y n p) :
    (s.afterDraw x y n).cell p = !s.cell p := by
  rw [State.afterDraw, setFlag_cell, cell_setFb, drawPixels_cell _ (sprite_nodup s x y n),
    decide_eq_true ((mem_sprite ..).mpr h), Bool.xor_true]
  rfl

theorem afterDraw_cell_not_covered {x y : Reg} {n : Fin 16} {p : Pixel} (h : ¬ s.covers x y n p) :
    (s.afterDraw x y n).cell p = s.cell p := by
  rw [State.afterDraw, setFlag_cell, cell_setFb, drawPixels_cell _ (sprite_nodup s x y n),
    decide_eq_false (mt (mem_sprite ..).mp h), Bool.xor_false]
  rfl

/-- The flag of a draw: a covered cell was on before it. -/
theorem draw_flag_iff (s : State) (x y : Reg) (n : Fin 16) :
    (drawPixels (s.sprite x y n) (s.fb, false)).2 = true ↔ ∃ p, s.covers x y n p ∧ s.cell p = true := by
  rw [drawPixels_flag _ (sprite_nodup s x y n), Bool.false_or, List.any_eq_true]
  exact exists_congr fun p => and_congr_left' (mem_sprite s x y n p)

theorem afterDraw_flag (s : State) (x y : Reg) (n : Fin 16) :
    (s.afterDraw x y n).reg 0xF = flagByte (drawPixels (s.sprite x y n) (s.fb, false)).2 :=
  (reg_setFlag ..).trans (if_pos rfl)

/-- The cells turned off by flipping the covered ones are the covered ones that were on. -/
theorem turned_off_iff {x y : Reg} {n : Fin 16} (hflip : ∀ p, s.covers x y n p → t.cell p = !s.cell p)
    (hkeep : ∀ p, ¬ s.covers x y n p → t.cell p = s.cell p) (p : Pixel) :
    s.cell p = true ∧ t.cell p = false ↔ s.covers x y n p ∧ s.cell p = true := by
  by_cases hp : s.covers x y n p
  · simp [hflip p hp, hp]
  · simp [hkeep p hp, hp]

/-- Settles O49: the draw flips the sprite's cells, which are the covered ones, each once; the flag says that one of
them was on (R190). -/
theorem drawFlipsTheCoveredCells : Obligations.DrawFlipsTheCoveredCells := by
  intro s x y n h
  have hcollision : (∃ p, s.cell p = true ∧ (s.afterDraw x y n).cell p = false) ↔
      (drawPixels (s.sprite x y n) (s.fb, false)).2 = true := by
    rw [draw_flag_iff]
    exact exists_congr (turned_off_iff (fun _ => afterDraw_cell_covered) (fun _ => afterDraw_cell_not_covered))
  refine ⟨_, exec_drw x y h, fun p => afterDraw_cell_covered, fun p => afterDraw_cell_not_covered, fun hp => ?_,
    fun hp => ?_, rfl, afterDraw_only s x y n⟩
  · rw [afterDraw_flag, hcollision.mp hp]
    rfl
  · rw [afterDraw_flag, Bool.eq_false_iff.mpr (mt hcollision.mpr hp)]
    rfl

theorem covers_congr {x y : Reg} (hx : t.reg x = s.reg x) (hy : t.reg y = s.reg y) (hi : t.i = s.i)
    (hbytes : ∀ a, t.readByte a = s.readByte a) (n : Fin 16) (p : Pixel) :
    t.covers x y n p ↔ s.covers x y n p := by
  simp only [State.covers, hx, hy, hi, hbytes]

/-- Settles O50: after the first draw the sprite covers the same cells, so the second flips each back; it turns off the
covered cells that the first turned on. -/
theorem drawTwiceRestores : Obligations.DrawTwiceRestores := by
  intro s x y n h hx hy
  obtain ⟨t, hexec, hflip, hkeep, -, -, -, hframe⟩ := drawFlipsTheCoveredCells s x y n h
  have hi : t.i = s.i := hframe.index rfl
  have hcovers : ∀ p, t.covers x y n p ↔ s.covers x y n p :=
    covers_congr (hframe.regs x (by simpa using hx)) (hframe.regs y (by simpa using hy)) hi
      (fun a => hframe.bytes a (by simp)) n
  obtain ⟨u, hexec', hflip', hkeep', hflag, hnoflag, -⟩ :=
    drawFlipsTheCoveredCells t x y n (by rwa [State.inMemory, hi])
  refine ⟨t, u, hexec, hexec', fun p => ?_, ?_⟩
  · by_cases hp : s.covers x y n p
    · rw [hflip' p ((hcovers p).mpr hp), hflip p hp, Bool.not_not]
    · rw [hkeep' p (mt (hcovers p).mp hp), hkeep p hp]
  · have hset : u.reg 0xF = 1 ↔ ∃ p, t.cell p = true ∧ u.cell p = false :=
      ⟨fun h1 => by_contra fun hno => absurd (h1.symm.trans (hnoflag hno)) (by decide), hflag⟩
    rw [hset]
    refine exists_congr fun p => (turned_off_iff hflip' hkeep' p).trans ?_
    rw [hcovers p]
    refine and_congr_right fun hp => ?_
    rw [hflip p hp, Bool.not_eq_true']

end Sys2Proof.Machine
end

section
/-! CERTIFICATES. The step of a running core: what it fetches, and the two faults it takes before any instruction
(30_encoding R70, 60_exceptions R228). -/

namespace Sys2Proof.Machine

variable {s t : State}

/-- Settles O6: the instruction `executes` names is the one the step finds. -/
theorem stepRunsTheDecodedInstruction : Obligations.StepRunsTheDecodedInstruction := by
  intro s i h
  rw [step, (executes_iff s i).mp h]

theorem step_of_noFetch (hr : s.status = .running) (hf : s.fetchWord? = none) :
    step s = .next (takeFault .addressOutOfRange none (some s.fetchFaultAddress) s) := by
  simp only [step, fetchDecode, hr, hf]

theorem step_of_rejected {op : Word} {why : Reject} (hr : s.status = .running) (hf : s.fetchWord? = some op)
    (hd : decode s.params.bnnnMode op = .rejected why) :
    step s = .next (takeFault .invalidInstruction (some op) none s) := by
  simp only [step, fetchDecode, hr, hf, hd]

theorem step_of_faulted {r : FaultRecord} (h : s.status = .faulted r) : step s = .next s := by
  simp only [step, fetchDecode, h]

/-- Settles O7: the fetch check comes first, then the decoder's refusal (R52, R76, R228). -/
theorem fetchAndDecodeFaultsAreTaken : Obligations.FetchAndDecodeFaultsAreTaken := by
  refine fun s hr => ⟨fun hpc => ?_, fun op why hpc hop hd => ?_⟩
  · exact step_of_noFetch hr (fetchWord?_none s (Nat.not_le.mpr hpc))
  · exact step_of_rejected hr (hop ▸ fetchWord?_some s hpc) hd

/-! ### The executed instruction -/

theorem executes_iff_fetch (hr : s.status = .running) (i : Instr) :
    s.executes i ↔ ∃ op, s.fetchWord? = some op ∧ decode s.params.bnnnMode op = .instr i := by
  constructor
  · rintro ⟨-, hpc, hd⟩
    exact ⟨_, fetchWord?_some s hpc, hd⟩
  · rintro ⟨op, hf, hd⟩
    by_cases hpc : s.pc.toNat ≤ lastFetch
    · rw [fetchWord?_some s hpc, Option.some.injEq] at hf
      exact ⟨hr, hpc, hf ▸ hd⟩
    · rw [fetchWord?_none s hpc] at hf
      cases hf

/-- The word fetched is the executed instruction's own. -/
theorem fetchWord?_of_executes {i : Instr} (h : s.executes i) : s.fetchWord? = some (encode i) := by
  obtain ⟨-, hpc, hd⟩ := h
  rw [fetchWord?_some s hpc, (encodeOfDecode _ _ _ hd).1]

theorem executes_wellFormed {i : Instr} (h : s.executes i) : i.wellFormed s.params.bnnnMode = true := by
  obtain ⟨-, -, hd⟩ := h
  exact (encodeOfDecode _ _ _ hd).2

theorem executes_unique {i j : Instr} (hi : s.executes i) (hj : s.executes j) : i = j := by
  rw [executes_iff] at hi hj
  exact Fetched.run.inj (hi.symm.trans hj)

end Sys2Proof.Machine
end

section
/-! CERTIFICATES. Everything an instruction can do: take its one fault, or write what the spec's tables allow it and
move `pc` (10_state R24, R25, R28, R29, 20_memory R53, 60_exceptions R220). -/

namespace Sys2Proof.Machine

variable {s t : State}

/-! ### The fault of an instruction, and its writes -/

/-- The fault an instruction raises in a state, if it raises one (R222 to R225; R108 for the optional row). -/
def faultOf (s : State) : Instr → Option FaultKind
  | .call _ => if s.sp.val = 16 then some .stackOverflow else none
  | .ret => if s.sp.val = 0 then some .stackUnderflow else none
  | .skp x | .sknp x => if (s.reg x).toNat > 0x0F then some .keyIndexOutOfRange else none
  | .jpV0 _ => if s.params.bnnnMode = .invalid then some .invalidInstruction else none
  | i => (s.dataFault? (accessLength i)).map fun _ => .addressOutOfRange

/-- What an instruction may write in a state. -/
def writesOf (s : State) (i : Instr) : Writes where
  regs := regsWritten i
  base := s.i.toNat
  bytes := bytesStored i
  index := writesIndex i
  stack := writesStack i
  dt := i matches .ldDtV _
  st := i matches .ldStV _
  fb := i matches .cls | .drw _ _ _
  random := i matches .rnd _ _

theorem inMemory_of_dataFault?_none {n : Nat} (h : s.dataFault? n = none) : s.inMemory n :=
  by_contra fun hn => by rw [dataFault?_of_not_inMemory hn] at h; cases h

/-- Where an instruction has a fault, it takes it. -/
theorem exec_of_fault {i : Instr} {k : FaultKind} (h : faultOf s i = some k) :
    ∃ info, exec i s = .next (takeFault k (some (encode i)) info s) := by
  cases i with
  | call nnn =>
    obtain ⟨hsp, ⟨⟩⟩ := Option.ite_none_right_eq_some.mp h
    exact ⟨_, exec_call_full s nnn hsp⟩
  | ret =>
    obtain ⟨hsp, ⟨⟩⟩ := Option.ite_none_right_eq_some.mp h
    exact ⟨_, exec_ret_empty s hsp⟩
  | skp x =>
    obtain ⟨hx, ⟨⟩⟩ := Option.ite_none_right_eq_some.mp h
    exact ⟨_, (keyIndexFaults s x hx).1⟩
  | sknp x =>
    obtain ⟨hx, ⟨⟩⟩ := Option.ite_none_right_eq_some.mp h
    exact ⟨_, (keyIndexFaults s x hx).2⟩
  | jpV0 nnn =>
    obtain ⟨hmode, ⟨⟩⟩ := Option.ite_none_right_eq_some.mp h
    exact ⟨_, exec_jpV0_invalid s nnn hmode⟩
  | _ =>
    simp only [faultOf, Option.map_eq_some_iff] at h
    obtain ⟨a, ha, rfl⟩ := h
    exact ⟨_, dataRangeFaults _ s fun hin => by rw [dataFault?_of_inMemory hin] at ha; cases ha⟩

/-- Where `pc` can be after an instruction that does not fault: past one word or two, still at the instruction (Fx0A),
at an address field, at an address field plus a byte under BNNN_MODE = jump_v0, or at a return address in use. -/
inductive NextPc (s : State) : Word → Prop
  | next : NextPc s (s.pc + 2)
  | skip : NextPc s (s.pc + 4)
  | stay : NextPc s s.pc
  | jump (nnn : Addr12) : NextPc s (zextAddr nnn)
  | offset (nnn : Addr12) (b : Byte) (h : s.params.bnnnMode = .jumpV0) : NextPc s (zextAddr nnn + zextByte b)
  | back (k : Fin 16) (h : k.val < s.sp.val) : NextPc s (s.stack.get k)

theorem NextPc.writeBytes (s : State) (a : Nat) (bs : List Byte) : NextPc s (s.advance.writeBytes a bs).pc := by
  rw [writeBytes_pc]
  exact .next

/-- What an instruction without a fault leaves: no write but its own, a `pc` of one of the known forms, and memory in
its canonical form. -/
structure Effect (i : Instr) (s t : State) : Prop where
  only : Only (writesOf s i) s t
  pc : NextPc s t.pc
  mem : s.memCanonical → t.memCanonical

/-- A conditional skip is within the writes of any instruction. -/
theorem Effect.skipIf (i : Instr) (s : State) (c : Bool) : Effect i s (s.advance.skipIf c) where
  only := (Only.refl _ s).advance.skipIf c
  pc := by
    rw [advance_skipIf_pc]
    cases c with
    | true => exact .skip
    | false => exact .next
  mem h := by cases c <;> exact h

/-- Where an instruction has no fault, it answers a next state with its effect. -/
theorem exec_of_noFault {i : Instr} (h : faultOf s i = none) : ∃ t, exec i s = .next t ∧ Effect i s t := by
  have honly : Only (writesOf s i) s s.advance := (Only.refl _ s).advance
  cases i with
  | cls => exact ⟨_, rfl, honly.setFb rfl _, .next, id⟩
  | jp nnn => exact ⟨_, rfl, honly.setPc _, .jump nnn, id⟩
  | seImm | sneImm | seReg | sneReg => exact ⟨_, rfl, .skipIf _ s _⟩
  | ldImm | addImm | ldReg | orReg | andReg | xorReg | ldVDt =>
    exact ⟨_, rfl, honly.setReg (List.mem_singleton_self _) _, .next, id⟩
  | addReg | subReg | subnReg | shr | shl =>
    exact ⟨_, rfl,
      honly.setResultAndFlag (by simp [writesOf, regsWritten]) (by simp [writesOf, regsWritten, flagReg]) _ _,
      .next, id⟩
  | ldI | addI | ldF => exact ⟨_, rfl, honly.setI rfl _, .next, id⟩
  | rnd => exact ⟨_, rfl, (honly.drawRandom rfl).setReg (List.mem_singleton_self _) _, .next, id⟩
  | ldDtV => exact ⟨_, rfl, honly.setDt rfl _, .next, id⟩
  | ldStV => exact ⟨_, rfl, honly.setSt rfl _, .next, id⟩
  | ret =>
    have hsp : s.sp.val ≠ 0 := by simpa [faultOf] using h
    exact ⟨_, exec_ret s hsp, (honly.setStack rfl _ _).setPc _,
      .back ⟨s.sp.val - 1, by omega⟩ (by simp only; omega), id⟩
  | call nnn =>
    have hsp : s.sp.val ≠ 16 := by simpa [faultOf] using h
    exact ⟨_, exec_call s nnn (by omega), (honly.setStack rfl _ _).setPc _, .jump nnn, id⟩
  | jpV0 nnn =>
    have hmode : s.params.bnnnMode = .jumpV0 := by
      cases hm : s.params.bnnnMode with
      | invalid => simp [faultOf, hm] at h
      | jumpV0 => rfl
    exact ⟨_, exec_jpV0 s nnn hmode, honly.setPc _, .offset nnn _ hmode, id⟩
  | skp x =>
    have hx : ¬ (s.reg x).toNat > 0x0F := by simpa [faultOf] using h
    exact ⟨_, exec_skp x (k := ⟨(s.reg x).toNat, by omega⟩) rfl, .skipIf _ s _⟩
  | sknp x =>
    have hx : ¬ (s.reg x).toNat > 0x0F := by simpa [faultOf] using h
    exact ⟨_, exec_sknp x (k := ⟨(s.reg x).toNat, by omega⟩) rfl, .skipIf _ s _⟩
  | ldKey x =>
    cases hk : s.firstKey? with
    | some k => exact ⟨_, exec_ldKey_of_firstKey x hk, honly.setReg (List.mem_singleton_self _) _, .next, id⟩
    | none => exact ⟨_, exec_ldKey_of_noKey x ((firstKey?_none_iff s).mp hk), Only.refl _ s, .stay, id⟩
  | ldB x =>
    have hin := inMemory_of_dataFault?_none (Option.map_eq_none_iff.mp h)
    exact ⟨_, exec_ldB x hin, honly.writeBytes rfl (inMemory_le hin (Nat.succ_pos 2)), .writeBytes s _ _,
      writeBytes_memWf s.advance _ _⟩
  | storeRegs x =>
    have hin := inMemory_of_dataFault?_none (Option.map_eq_none_iff.mp h)
    refine ⟨_, exec_storeRegs x hin, honly.writeBytes (firstRegs_length s x).symm ?_, .writeBytes s _ _,
      writeBytes_memWf s.advance _ _⟩
    rw [firstRegs_length]
    exact inMemory_le hin (Nat.succ_pos _)
  | loadRegs x =>
    have hin := inMemory_of_dataFault?_none (Option.map_eq_none_iff.mp h)
    refine ⟨_, exec_loadRegs x hin, honly.loadRegsFrom (fun r hr => ?_) _, .next, id⟩
    exact List.mem_filter.mpr ⟨List.mem_finRange r, decide_eq_true (Nat.le_of_lt_succ hr)⟩
  | drw x y n =>
    have hin := inMemory_of_dataFault?_none (Option.map_eq_none_iff.mp h)
    exact ⟨_, exec_drw x y hin, (honly.setFb rfl _).setFlag (List.mem_singleton_self _) _, .next, id⟩

/-! ### The instructions' writes -/

/-- Whatever an instruction answers, every component but the status is within its writes. -/
theorem exec_cases {i : Instr} (h : exec i s = .next t) :
    (∃ k info, faultOf s i = some k ∧ t = takeFault k (some (encode i)) info s) ∨
    (faultOf s i = none ∧ Effect i s t) := by
  cases hf : faultOf s i with
  | some k =>
    obtain ⟨info, hexec⟩ := exec_of_fault hf
    exact .inl ⟨k, info, rfl, Host.Outcome.next.inj (h.symm.trans hexec)⟩
  | none =>
    obtain ⟨u, hexec, heffect⟩ := exec_of_noFault hf
    obtain rfl := Host.Outcome.next.inj (h.symm.trans hexec)
    exact .inr ⟨rfl, heffect⟩

/-- Settles O20: a fault writes no register, and the writes are the table's (R24). -/
theorem registersWrittenAsTabled : Obligations.RegistersWrittenAsTabled := by
  intro i s t h r hr
  obtain ⟨k, info, -, rfl⟩ | ⟨-, heffect⟩ := exec_cases h
  · exact takeFault_reg ..
  · exact heffect.only.regs r hr

/-- Settles O21: a fault stores no byte, and the writes are the table's (R53). -/
theorem memoryWrittenAsTabled : Obligations.MemoryWrittenAsTabled := by
  intro i s t h a ha
  obtain ⟨k, info, -, rfl⟩ | ⟨-, heffect⟩ := exec_cases h
  · exact takeFault_readByte ..
  · exact heffect.only.bytes a ha

/-- Settles O22: a fault writes neither, and the writes are those of R28 and R25. -/
theorem indexAndStackWriters : Obligations.IndexAndStackWriters := by
  intro i s t h
  obtain ⟨k, info, -, rfl⟩ | ⟨-, heffect⟩ := exec_cases h
  · exact ⟨fun _ => takeFault_i .., fun _ => ⟨takeFault_stack .., takeFault_sp ..⟩⟩
  · exact ⟨heffect.only.index, heffect.only.stack⟩

end Sys2Proof.Machine
end

section
/-! CERTIFICATES. The faults of a step: their causes and what they leave (60_exceptions R220, R226 to R228). -/

namespace Sys2Proof.Machine

variable {s t : State}

/-! ### The fault of a step -/

/-- The fault a step of a running core takes, if it takes one, in the order of the checks (R228). -/
def State.stepFault? (s : State) : Option FaultKind :=
  match s.fetchWord? with
  | none => some .addressOutOfRange
  | some op =>
    match decode s.params.bnnnMode op with
    | .rejected _ => some .invalidInstruction
    | .instr i => faultOf s i

theorem stepFault?_of_executes {i : Instr} (h : s.executes i) : s.stepFault? = faultOf s i := by
  simp only [State.stepFault?, fetchWord?_of_executes h, decode_encode (executes_wellFormed h)]

/-- Everything a step of a running core can do: take its one fault, or execute an instruction that has none. -/
theorem step_running_cases (hr : s.status = .running) (h : step s = .next t) :
    (∃ k info, s.stepFault? = some k ∧ t = takeFault k s.fetchWord? info s) ∨
    (∃ i, s.executes i ∧ s.stepFault? = none ∧ exec i s = .next t ∧ Effect i s t) := by
  cases hf : s.fetchWord? with
  | none =>
    obtain rfl := Host.Outcome.next.inj ((step_of_noFetch hr hf).symm.trans h)
    exact .inl ⟨_, _, by simp only [State.stepFault?, hf], rfl⟩
  | some op =>
    cases hd : decode s.params.bnnnMode op with
    | rejected why =>
      obtain rfl := Host.Outcome.next.inj ((step_of_rejected hr hf hd).symm.trans h)
      exact .inl ⟨_, _, by simp only [State.stepFault?, hf, hd], rfl⟩
    | instr i =>
      have hi : s.executes i := (executes_iff_fetch hr i).mpr ⟨op, hf, hd⟩
      have hexec := (stepRunsTheDecodedInstruction s i hi).symm.trans h
      obtain ⟨k, info, hk, rfl⟩ | ⟨hk, heffect⟩ := exec_cases hexec
      · exact .inl ⟨k, info, (stepFault?_of_executes hi).trans hk, by rw [← hf, fetchWord?_of_executes hi]⟩
      · exact .inr ⟨i, hi, (stepFault?_of_executes hi).trans hk, hexec, heffect⟩

/-- The kinds with their codes (R220). -/
theorem kind_code_mem (k : FaultKind) :
    (k, k.code) ∈ [(FaultKind.invalidInstruction, 1), (.addressOutOfRange, 2), (.stackOverflow, 3),
      (.stackUnderflow, 4), (.keyIndexOutOfRange, 5)] := by
  cases k <;> decide

/-- Settles O9: a step that ends faulted has taken its fault, since an instruction without one leaves the status
(R226). -/
theorem faultsArePrecise : Obligations.FaultsArePrecise := by
  intro s t r hr h ht
  obtain ⟨k, info, -, rfl⟩ | ⟨i, -, -, -, heffect⟩ := step_running_cases hr h
  · obtain rfl := Status.faulted.inj ht
    exact ⟨rfl, rfl, kind_code_mem k, rfl⟩
  · exact absurd (ht.symm.trans (heffect.only.status.trans hr)) (by simp)

/-! ### The causes -/

theorem faultOf_some_iff {i : Instr} (hwf : i.wellFormed s.params.bnnnMode = true) (k : FaultKind) :
    faultOf s i = some k ↔
      ((k = .stackOverflow ∧ (∃ nnn, i = .call nnn) ∧ s.sp.val = 16) ∨
       (k = .stackUnderflow ∧ i = .ret ∧ s.sp.val = 0) ∨
       (k = .addressOutOfRange ∧ ¬ s.inMemory (accessLength i)) ∨
       (k = .keyIndexOutOfRange ∧ ∃ x, (i = .skp x ∨ i = .sknp x) ∧ (s.reg x).toNat > 0x0F)) := by
  have hdata : ∀ n, ¬ s.inMemory n ↔ ∃ a, s.dataFault? n = some a := fun n =>
    ⟨fun h => ⟨_, dataFault?_of_not_inMemory h⟩, fun ⟨a, ha⟩ h => by rw [dataFault?_of_inMemory h] at ha; cases ha⟩
  cases i with
  | call | ret | skp | sknp =>
    simp [faultOf, accessLength, inMemory_zero, eq_comm, and_comm]
  | jpV0 =>
    have hmode : s.params.bnnnMode = .jumpV0 := by simpa [Instr.wellFormed] using hwf
    simp [faultOf, accessLength, inMemory_zero, hmode]
  | _ => simp [faultOf, hdata, eq_comm, and_comm]

theorem stepFault?_some_iff (hr : s.status = .running) (k : FaultKind) :
    s.stepFault? = some k ↔
      (k = .addressOutOfRange ∧ s.pc.toNat > 0xFFE) ∨
      (k = .invalidInstruction ∧ s.pc.toNat ≤ 0xFFE ∧ ∀ i, ¬ s.executes i) ∨
      ∃ i, s.executes i ∧ faultOf s i = some k := by
  by_cases hpc : s.pc.toNat ≤ 0xFFE
  · have hfetch := fetchWord?_some s hpc
    cases hd : decode s.params.bnnnMode (wordOfBytes (s.readByte s.pc.toNat) (s.readByte (s.pc.toNat + 1))) with
    | rejected why =>
      have hnone : ∀ i, ¬ s.executes i := fun i ⟨_, _, hi⟩ => by rw [hd] at hi; cases hi
      simp [State.stepFault?, hfetch, hd, hpc, hnone, eq_comm]
    | instr i =>
      have hi : s.executes i := ⟨hr, hpc, hd⟩
      have hj : ∀ j, s.executes j ↔ j = i := fun j => ⟨(executes_unique · hi), fun e => e ▸ hi⟩
      simp [stepFault?_of_executes hi, hj, Nat.not_lt.mpr hpc]
  · have hnone : ∀ i, ¬ s.executes i := fun i ⟨_, h, _⟩ => hpc h
    simp [State.stepFault?, fetchWord?_none s hpc, hnone, hpc, Nat.not_le.mp hpc, eq_comm]

/-- Settles O10: a step ends in a fault of a kind where that is the fault its checks find, and the checks are those the
spec lists, in its order (R228). -/
theorem faultsHaveTheirCauses : Obligations.FaultsHaveTheirCauses := by
  intro s t hr h k
  have hends : (∃ r, t.status = .faulted r ∧ r.kind = k) ↔ s.stepFault? = some k := by
    obtain ⟨k', info, hk', rfl⟩ | ⟨i, -, hnone, -, heffect⟩ := step_running_cases hr h
    · simp [hk']
    · simp [hnone, heffect.only.status, hr]
  rw [hends, stepFault?_some_iff hr]
  exact or_congr_right <| or_congr_right <| exists_congr fun i =>
    and_congr_right fun hi => faultOf_some_iff (executes_wellFormed hi) k

end Sys2Proof.Machine
end

section
/-! CERTIFICATES. What no instruction reads: ST, and the bytes lined up at the random port where the instruction is no
Cxkk (10_state R29, 43_random R171, 60_exceptions R240). A step from a state that differs in these alone does the
same. -/

namespace Sys2Proof.Machine

variable {s t : State}

/-! ### Completion and writes of a step -/

theorem exec_next (i : Instr) (s : State) : ∃ t, exec i s = .next t := by
  cases hf : faultOf s i with
  | some k =>
    obtain ⟨info, hexec⟩ := exec_of_fault hf
    exact ⟨_, hexec⟩
  | none =>
    obtain ⟨t, hexec, -⟩ := exec_of_noFault hf
    exact ⟨t, hexec⟩

/-- A step answers a next state, whatever it finds (R241). -/
theorem step_next (s : State) : ∃ t, step s = .next t := by
  unfold step
  split
  · exact exec_next _ s
  · exact ⟨_, rfl⟩

/-- A step writes the status alone, or what its instruction may write. -/
theorem step_writes (h : step s = .next t) :
    t = { s with status := t.status } ∨ ∃ i, s.executes i ∧ exec i s = .next t ∧ Only (writesOf s i) s t := by
  cases hs : s.status with
  | faulted r =>
    obtain rfl := Host.Outcome.next.inj ((step_of_faulted hs).symm.trans h)
    exact .inl rfl
  | running =>
    obtain ⟨k, info, -, rfl⟩ | ⟨i, hi, -, hexec, heffect⟩ := step_running_cases hs h
    · exact .inl rfl
    · exact .inr ⟨i, hi, hexec, heffect.only⟩

/-- Settles O18: of the instructions, Fx15 alone writes DT and Fx18 alone ST (R29). -/
theorem timersWrittenOnlyByTheirInstructions : Obligations.TimersWrittenOnlyByTheirInstructions := by
  intro s t h
  obtain ht | ⟨i, hi, hexec, -⟩ := step_writes h
  · exact ⟨fun hne => absurd (congrArg State.dt ht) hne, fun hne => absurd (congrArg State.st ht) hne⟩
  · obtain ⟨x, rfl, hdt, hst⟩ | ⟨x, rfl, hst, hdt⟩ | ⟨hdt, hst⟩ := exec_timers_cases hexec
    · exact ⟨fun _ => ⟨x, hi, hdt⟩, (absurd hst ·)⟩
    · exact ⟨(absurd hdt ·), fun _ => ⟨x, hi, hst⟩⟩
    · exact ⟨(absurd hdt ·), (absurd hst ·)⟩

/-! ### Other values of ST and of the bytes lined up -/

/-- `s` with other values of ST and of the bytes lined up. -/
def State.mapUnread (f : Byte → Byte) (g : List Byte → List Byte) (s : State) : State :=
  { s with st := f s.st, randomIn := g s.randomIn }

variable {f : Byte → Byte} {g : List Byte → List Byte}

@[simp] theorem mapUnread_dataFault? (n : Nat) : (s.mapUnread f g).dataFault? n = s.dataFault? n := rfl

@[simp] theorem mapUnread_reg (r : Reg) : (s.mapUnread f g).reg r = s.reg r := rfl

@[simp] theorem mapUnread_firstKey? : (s.mapUnread f g).firstKey? = s.firstKey? := rfl

@[simp] theorem mapUnread_params : (s.mapUnread f g).params = s.params := rfl

theorem mapUnread_skipIf (c : Bool) : (s.mapUnread f g).skipIf c = (s.skipIf c).mapUnread f g := by cases c <;> rfl

theorem mapUnread_writeByte (a : Nat) (b : Byte) :
    (s.mapUnread f g).writeByte a b = (s.writeByte a b).mapUnread f g := by
  unfold State.writeByte
  split <;> rfl

theorem mapUnread_writeBytes (a : Nat) (bs : List Byte) :
    (s.mapUnread f g).writeBytes a bs = (s.writeBytes a bs).mapUnread f g := by
  induction bs generalizing s a with
  | nil => rfl
  | cons b rest ih => rw [State.writeBytes, mapUnread_writeByte, ih, State.writeBytes]

theorem mapUnread_sprite (x y : Reg) (n : Fin 16) : (s.mapUnread f g).sprite x y n = s.sprite x y n :=
  congrArg (spritePixels _ _) (readBytes_congr (s := s) (t := s.mapUnread f g) (fun _ => rfl) _ _)

/-- An instruction does the same on other values of what it does not read: of ST, which is written by Fx18 alone, and of
the bytes lined up, which are read by Cxkk alone. -/
theorem exec_mapUnread {i : Instr} (hst : ∀ x, i = .ldStV x → f = id) (hrnd : ∀ x kk, i = .rnd x kk → g = id)
    (h : exec i s = .next t) : exec i (s.mapUnread f g) = .next (t.mapUnread f g) := by
  cases i with
  | ldStV x =>
    obtain rfl := hst x rfl
    cases h
    rfl
  | rnd x kk =>
    obtain rfl := hrnd x kk rfl
    cases h
    rfl
  | ret =>
    by_cases hsp : s.sp.val = 0
    · obtain rfl := Host.Outcome.next.inj ((exec_ret_empty s hsp).symm.trans h)
      exact exec_ret_empty (s.mapUnread f g) hsp
    · obtain rfl := Host.Outcome.next.inj ((exec_ret s hsp).symm.trans h)
      exact exec_ret (s.mapUnread f g) hsp
  | call nnn =>
    by_cases hsp : s.sp.val = 16
    · obtain rfl := Host.Outcome.next.inj ((exec_call_full s nnn hsp).symm.trans h)
      exact exec_call_full (s.mapUnread f g) nnn hsp
    · obtain rfl := Host.Outcome.next.inj ((exec_call s nnn (show s.sp.val < 16 by omega)).symm.trans h)
      exact exec_call (s.mapUnread f g) nnn (show s.sp.val < 16 by omega)
  | ldB | storeRegs =>
    simp only [exec, execLdB, execStoreRegs, mapUnread_dataFault?] at h ⊢
    split at h <;> cases h
    · rfl
    · exact congrArg _ (mapUnread_writeBytes (s := s.advance) ..)
  | drw =>
    simp only [exec, execDrw, mapUnread_dataFault?, mapUnread_sprite] at h ⊢
    split at h <;> cases h <;> rfl
  | loadRegs | ldKey | jpV0 =>
    simp only [exec, execLoadRegs, execLdKey, execJpV0, mapUnread_dataFault?, mapUnread_firstKey?,
      mapUnread_params] at h ⊢
    split at h <;> cases h <;> rfl
  | skp | sknp =>
    simp only [exec, execSkp, execSknp, mapUnread_reg] at h ⊢
    split at h <;> cases h
    · rfl
    · exact congrArg _ (mapUnread_skipIf (s := s.advance) _)
  | seImm | sneImm | seReg | sneReg =>
    cases h
    exact congrArg _ (mapUnread_skipIf (s := s.advance) _)
  | _ =>
    cases h
    rfl

/-- The same of a step: what it fetches does not depend on the unread values. -/
theorem step_mapUnread (hst : ∀ x, s.executes (.ldStV x) → f = id) (hrnd : ∀ x kk, s.executes (.rnd x kk) → g = id)
    (h : step s = .next t) : step (s.mapUnread f g) = .next (t.mapUnread f g) := by
  cases hs : s.status with
  | faulted r =>
    obtain rfl := Host.Outcome.next.inj ((step_of_faulted hs).symm.trans h)
    exact step_of_faulted (s := s.mapUnread f g) hs
  | running =>
    cases hf : s.fetchWord? with
    | none =>
      obtain rfl := Host.Outcome.next.inj ((step_of_noFetch hs hf).symm.trans h)
      exact step_of_noFetch (s := s.mapUnread f g) hs hf
    | some op =>
      cases hd : decode s.params.bnnnMode op with
      | rejected why =>
        obtain rfl := Host.Outcome.next.inj ((step_of_rejected hs hf hd).symm.trans h)
        exact step_of_rejected (s := s.mapUnread f g) hs hf hd
      | instr i =>
        have hi : s.executes i := (executes_iff_fetch hs i).mpr ⟨op, hf, hd⟩
        rw [stepRunsTheDecodedInstruction s i hi] at h
        rw [stepRunsTheDecodedInstruction (s.mapUnread f g) i hi]
        exact exec_mapUnread (fun x e => hst x (e ▸ hi)) (fun x kk e => hrnd x kk (e ▸ hi)) h

/-! ### The statements -/

/-- Settles O19: Fx18 overwrites ST, and any other instruction keeps whatever value it has (R29). -/
theorem soundTimerIsNeverRead : Obligations.SoundTimerIsNeverRead := by
  intro s t b h
  by_cases hx : ∃ x, s.executes (.ldStV x)
  · obtain ⟨x, hi⟩ := hx
    obtain rfl := Host.Outcome.next.inj ((stepRunsTheDecodedInstruction s _ hi).symm.trans h)
    exact ⟨_, stepRunsTheDecodedInstruction { s with st := b } (.ldStV x) hi, rfl⟩
  · exact ⟨_, step_mapUnread (f := fun _ => b) (g := id) (fun x hi => absurd ⟨x, hi⟩ hx) (fun _ _ _ => rfl) h, rfl⟩

theorem stepPort_of_step {b : Byte} {u : State} (h : step { s with randomIn := b :: s.randomIn } = .next u) :
    transact (.step b) s = .next ({ u with randomIn := s.randomIn }, u.stepResponse) := by
  rw [transact, stepPort, h]

/-- Settles O16: Cxkk takes the byte the port puts first; without a Cxkk the step does the same whatever bytes are lined
up, and draws none (R171, R240). -/
theorem randomByteUsedOnlyByRnd : Obligations.RandomByteUsedOnlyByRnd := by
  refine fun s => ⟨fun x kk b hi => ?_, fun hno => ?_⟩
  · have hstep := stepRunsTheDecodedInstruction { s with randomIn := b :: s.randomIn } (.rnd x kk) hi
    obtain ⟨t, hexec, htaken, -, hdraws, -, honly⟩ := rndMasksOneByte { s with randomIn := b :: s.randomIn } x kk
    obtain ⟨hreg, -⟩ := htaken b s.randomIn rfl
    obtain ⟨hrunning, -⟩ := hi
    refine ⟨{ t with randomIn := s.randomIn }, (stepPort_of_step (hstep.trans hexec)).trans ?_, hreg, hdraws, rfl⟩
    rw [State.stepResponse, honly.status, hrunning]
  · obtain ⟨t, h⟩ := step_next s
    have hport : ∀ b, transact (.step b) s = .next ({ t with randomIn := s.randomIn }, t.stepResponse) := fun b =>
      stepPort_of_step (u := t.mapUnread id _) <|
        step_mapUnread (f := id) (g := fun _ => b :: s.randomIn) (fun _ _ => rfl)
          (fun x kk hi => absurd hi (hno x kk)) h
    refine fun b b' => ⟨(hport b).trans (hport b').symm, fun u q hu => ?_⟩
    obtain ⟨rfl, -⟩ := Prod.mk.inj (Host.Outcome.next.inj ((hport b).symm.trans hu))
    refine ⟨?_, rfl⟩
    obtain ht | ⟨i, hi, -, honly⟩ := step_writes h
    · exact (congrArg State.draws ht :)
    · refine (honly.random ?_).2
      cases i with
      | rnd x kk => exact absurd hi (hno x kk)
      | _ => rfl

end Sys2Proof.Machine
end

section
/-! CERTIFICATES. The host's calls: each completes, and what each leaves unchanged (60_exceptions R240 to R248). -/

namespace Sys2Proof.Machine

variable {s t : State} {q : Response}

/-! ### What each call does -/

theorem stepResponse_of_faulted {r : FaultRecord} (h : s.status = .faulted r) : s.stepResponse = .fail r := by
  rw [State.stepResponse, h]

theorem runCalls_cons {c : HostCall} {rest : List HostCall} (h : transact c s = .next (t, q)) :
    runCalls (c :: rest) s = runCalls rest t := by
  rw [runCalls, h]

theorem transact_step_cases {b : Byte} (h : transact (.step b) s = .next (t, q)) :
    ∃ u, step { s with randomIn := b :: s.randomIn } = .next u ∧ t = { u with randomIn := s.randomIn } := by
  obtain ⟨u, hu⟩ := step_next { s with randomIn := b :: s.randomIn }
  obtain ⟨rfl, -⟩ := Prod.mk.inj (Host.Outcome.next.inj (h.symm.trans (stepPort_of_step hu)))
  exact ⟨u, hu, rfl⟩

theorem transact_load_fits {bytes : List Byte} (h : bytes.length ≤ romMax) :
    transact (.load bytes) s = .next (s.writeBytes romBase bytes, .ok) := by
  rw [transact, loadPort, load_fits s h]

theorem transact_load_oversized {bytes : List Byte} (h : bytes.length > romMax) :
    transact (.load bytes) s = .next (s, .loadFailed (.oversizedRom bytes.length)) := by
  rw [transact, loadPort, load_oversized s h]

/-- A load writes the program, or nothing. -/
theorem transact_load_cases {bytes : List Byte} (h : transact (.load bytes) s = .next (t, q)) :
    t = s.writeBytes romBase bytes ∨ t = s := by
  by_cases hfits : bytes.length ≤ romMax
  · exact .inl (Prod.mk.inj (Host.Outcome.next.inj (h.symm.trans (transact_load_fits hfits)))).1
  · exact .inr (Prod.mk.inj (Host.Outcome.next.inj (h.symm.trans (transact_load_oversized (by omega))))).1

/-- Settles O11: a step completes, a load that fails is answered, and the other calls have no condition (R241, R248). -/
theorem everyTransactionCompletes : Obligations.EveryTransactionCompletes := by
  intro c s
  cases c with
  | step b =>
    obtain ⟨u, hu⟩ := step_next { s with randomIn := b :: s.randomIn }
    exact ⟨_, _, stepPort_of_step hu⟩
  | load bytes =>
    by_cases hfits : bytes.length ≤ romMax
    · exact ⟨_, _, transact_load_fits hfits⟩
    · exact ⟨_, _, transact_load_oversized (by omega)⟩
  | tick | keySet | reset | display => exact ⟨_, _, rfl⟩

/-! ### What no step changes -/

theorem step_params (h : step s = .next t) : t.params = s.params := by
  obtain ht | ⟨i, -, -, honly⟩ := step_writes h
  · rw [ht]
  · exact honly.params

theorem step_keyDown (h : step s = .next t) (k : Fin 16) : t.keyDown k = s.keyDown k := by
  obtain ht | ⟨i, -, -, honly⟩ := step_writes h
  · rw [ht]
    rfl
  · exact honly.key k

/-- A step that changes a cell executes 00E0 or Dxyn. -/
theorem step_cell (h : step s = .next t) {p : Pixel} (hp : t.cell p ≠ s.cell p) :
    s.executes .cls ∨ ∃ x y n, s.executes (.drw x y n) := by
  obtain ht | ⟨i, hi, -, honly⟩ := step_writes h
  · exact absurd (by rw [ht]; rfl) hp
  · cases i with
    | cls => exact .inl hi
    | drw x y n => exact .inr ⟨x, y, n, hi⟩
    | _ => exact absurd (honly.fb rfl p) hp

/-! ### The statements -/

/-- Settles O8: a step of a faulted core is no change, and no other call but reset writes the status (R227, R232). -/
theorem faultIsStickyUntilReset : Obligations.FaultIsStickyUntilReset := by
  intro s r hr
  have hport : ∀ b, transact (.step b) s = .next (s, .fail r) := fun b =>
    (stepPort_of_step (step_of_faulted (s := { s with randomIn := b :: s.randomIn }) hr)).trans <|
      congrArg (fun q => Host.Outcome.next (s, q)) <|
        stepResponse_of_faulted (s := { s with randomIn := b :: s.randomIn }) hr
  refine ⟨step_of_faulted hr, hport, fun c t q h => ?_, fun t q h => ?_⟩
  · cases c with
    | reset =>
      cases h
      simp
    | step b =>
      obtain ⟨rfl, -⟩ := Prod.mk.inj (Host.Outcome.next.inj (h.symm.trans (hport b)))
      simp [hr]
    | load bytes =>
      obtain rfl | rfl := transact_load_cases h <;> simp [hr]
    | tick | keySet | display =>
      cases h
      simp [hr, tickTimers]
  · cases h
    rfl

/-- Settles O15: no operation of a call writes the parameters; reset keeps them (R9). -/
theorem parametersNeverChange : Obligations.ParametersNeverChange := by
  intro c s t q h
  cases c with
  | step b =>
    obtain ⟨u, hu, rfl⟩ := transact_step_cases h
    exact (step_params hu :)
  | load bytes =>
    obtain rfl | rfl := transact_load_cases h
    · exact writeBytes_params ..
    · rfl
  | tick | keySet | reset | display =>
    cases h
    rfl

/-- Settles O17: no step and no other call but reset writes a key (R30, R242). -/
theorem keysChangeOnlyBySetKey : Obligations.KeysChangeOnlyBySetKey := by
  refine ⟨fun s k b => ⟨_, rfl, ?_, fun j hj => ?_, rfl⟩, fun c s t q h hreset hset k => ?_⟩
  · rw [keyDown_setKeyDown, if_pos rfl]
  · rw [keyDown_setKeyDown, if_neg hj]
  · cases c with
    | reset => exact absurd rfl hreset
    | keySet j b => exact absurd rfl (hset j b)
    | step b =>
      obtain ⟨u, hu, rfl⟩ := transact_step_cases h
      exact step_keyDown hu k
    | load bytes =>
      obtain rfl | rfl := transact_load_cases h
      · exact writeBytes_keyDown ..
      · rfl
    | tick | display =>
      cases h
      rfl

/-- Settles O53: one timer step takes one from each timer, and signals where it takes ST from 1 to 0 (R234, R235). -/
theorem ticksInARow : Obligations.TicksInARow := by
  intro n
  induction n with
  | zero => exact fun s => ⟨s, rfl, rfl, rfl, by rw [if_neg (by omega)]; rfl⟩
  | succ n ih =>
    intro s
    obtain ⟨t, hrun, hdt, hst, hcount⟩ := ih (tickTimers s).1
    have hdt1 : (tickTimers s).1.dt.toNat = s.dt.toNat - 1 := countDown_toNat s.dt
    have hst1 : (tickTimers s).1.st.toNat = s.st.toNat - 1 := countDown_toNat s.st
    have htone : (tickTimers s).2 = true ↔ s.st.toNat = 1 := tone_iff s.st
    refine ⟨t, hrun, by omega, by omega, ?_⟩
    rw [toneEnds, List.count_cons, hcount, hst1]
    simp only [beq_iff_eq, htone]
    split <;> split <;> split <;> omega

/-- Settles O54: a program that fits ends within memory, and the load is its one block write (R262). -/
theorem loadCopiesOrFails : Obligations.LoadCopiesOrFails := by
  refine fun s bytes => ⟨fun h => ?_, fun h => ⟨transact_load_oversized h, rfl⟩⟩
  have hmem : romBase + bytes.length ≤ lastAddress + 1 := by simp only [romBase, lastAddress]; omega
  refine ⟨_, transact_load_fits h, fun k b hb => ?_, writeBytes_pc .., (Only.refl _ s).writeBytes rfl hmem⟩
  obtain ⟨hk, rfl⟩ := List.getElem?_eq_some_iff.mp hb
  exact readByte_writeBytes_inside s hmem hk

end Sys2Proof.Machine
end

section
/-! CERTIFICATES. Reset and the display (70_reset R260, R263, 60_exceptions R243). -/

namespace Sys2Proof.Machine

/-! ### Reset (R38) -/

/-- A block write does not see the random port. -/
theorem writeBytes_randomPort (s : State) (l : List Byte) (d a : Nat) (bs : List Byte) :
    { s with randomIn := l, draws := d }.writeBytes a bs = { s.writeBytes a bs with randomIn := l, draws := d } := by
  induction bs generalizing s a with
  | nil => rfl
  | cons b rest ih =>
    rw [State.writeBytes, State.writeBytes, ← ih]
    unfold State.writeByte
    split <;> rfl

theorem resetInPlace_readByte (s : State) (a : Nat) : s.resetInPlace.readByte a = unlistedByte s.params.font a := rfl

/-- Settles O55: each component is the one `resetInPlace` names, and an empty memory reads as the reset contents (R260,
R263). -/
theorem resetRestores : Obligations.ResetRestores := by
  intro s
  refine ⟨s.resetInPlace, rfl, fun r => ?_, rfl, rfl, fun k => ?_, rfl, rfl, rfl, fun k => ?_, Framebuffer.cell_blank,
    fun a b h => ?_, fun a h => ?_, rfl, fun bytes h => ?_⟩
  · simp [State.reg, Vector.get_eq_getElem]
  · simp [Vector.get_eq_getElem]
  · simp [State.keyDown, Vector.get_eq_getElem]
  · obtain ⟨ha, rfl⟩ := Vector.getElem?_eq_some_iff.mp h
    exact (resetInPlace_readByte s a).trans (dif_pos ha)
  · exact (resetInPlace_readByte s a).trans (dif_neg (by omega))
  · have hload (s : State) : runCalls [.load bytes] s = .next (s.writeBytes romBase bytes) :=
      runCalls_cons (transact_load_fits h)
    exact ⟨_, _, (runCalls_cons rfl).trans (hload s.resetInPlace), hload (State.initial s.params),
      writeBytes_randomPort (State.initial s.params) s.randomIn s.draws romBase bytes⟩

/-! ### The display (R243) -/

/-- The rows of a list one after another: `j` of row `i` is at place `i * n + j`. -/
theorem flatMap_toList_getElem? {α : Type} {n : Nat} (rows : List (Vector α n)) {i j : Nat} (hi : i < rows.length)
    (hj : j < n) : (rows.flatMap Vector.toList)[i * n + j]? = some rows[i][j] := by
  induction rows generalizing i with
  | nil => exact absurd hi (Nat.not_lt_zero i)
  | cons row rest ih =>
    rw [List.flatMap_cons]
    cases i with
    | zero => simp [hj, List.getElem?_append_left]
    | succ i =>
      rw [List.getElem?_append_right (by simp [Nat.succ_mul]; omega), Vector.length_toList,
        show (i + 1) * n + j - n = i * n + j by rw [Nat.succ_mul]; omega, ih (Nat.lt_of_succ_lt_succ hi),
        List.getElem_cons_succ]

theorem display_length (s : State) : (display s).length = 2048 := by
  simp [display, List.length_flatMap]

theorem display_getElem? (s : State) (p : Pixel) : (display s)[p.y.val * 64 + p.x.val]? = some (s.cell p) :=
  flatMap_toList_getElem? s.fb.toList (by simp) p.x.isLt

/-- Settles O56: the rows stand one after another in the view; of the calls only a step reaches the framebuffer, and of
the instructions only 00E0 and Dxyn (R31, R243). -/
theorem displayShowsTheCells : Obligations.DisplayShowsTheCells := by
  refine ⟨fun s => ⟨_, rfl, display_length s, display_getElem? s⟩, fun c s t q h hreset hp => ?_⟩
  obtain ⟨p, hp⟩ := hp
  cases c with
  | reset => exact absurd rfl hreset
  | step b =>
    obtain ⟨u, hu, rfl⟩ := transact_step_cases h
    exact ⟨⟨b, rfl⟩, (step_cell hu hp :)⟩
  | load bytes =>
    obtain rfl | rfl := transact_load_cases h
    · exact absurd (writeBytes_cell ..) hp
    · exact absurd rfl hp
  | tick | keySet | display =>
    cases h
    exact absurd rfl hp

end Sys2Proof.Machine
end

section
/-! CERTIFICATES. The invariant of every run (70_reset R276, 10_state R32, R35): it holds at construction, and every
step and every call of the host keeps it. -/

namespace Sys2Proof.Machine

variable {s t : State}

/-! ### The bounds -/

theorem pcBound_ge (mode : BnnnMode) : 0x1002 ≤ pcBound mode := by cases mode <;> decide

/-- A small advance of a word does not wrap. -/
theorem word_add_toNat {w : Word} (hw : w.toNat ≤ 0xFFE) {n : Nat} (hn : n ≤ 4) :
    (w + BitVec.ofNat 16 n).toNat = w.toNat + n := by
  have hn16 : (BitVec.ofNat 16 n).toNat = n := Nat.mod_eq_of_lt (by omega)
  rw [BitVec.toNat_add_of_lt] <;> rw [hn16]
  omega

/-- An instruction is fetched from 0xFFE at most, so each form of the next `pc` is within the bound (R276). -/
theorem NextPc.inRange {w : Word} (h : NextPc s w) (hpc : s.pc.toNat ≤ 0xFFE) (hreturns : s.returnsInRange) :
    w.toNat ≤ pcBound s.params.bnnnMode := by
  have hbound := pcBound_ge s.params.bnnnMode
  cases h with
  | next =>
    have : (s.pc + 2).toNat = s.pc.toNat + 2 := word_add_toNat hpc (by decide)
    omega
  | skip =>
    have : (s.pc + 4).toNat = s.pc.toNat + 4 := word_add_toNat hpc (by decide)
    omega
  | stay => omega
  | jump nnn =>
    have := nnn.isLt
    rw [zextAddr_toNat]
    omega
  | offset nnn b hmode =>
    have := nnn.isLt
    have := b.isLt
    rw [jumpOffset_toNat, hmode, pcBound]
    omega
  | back k hk =>
    have := hreturns k hk
    omega

/-- A CALL pushes its own address plus 2, a RET leaves the entries below, and no other instruction reaches the stack. -/
theorem exec_returnsInRange {i : Instr} (hnone : faultOf s i = none) (h : exec i s = .next t)
    (hpc : s.pc.toNat ≤ 0xFFE) (hreturns : s.returnsInRange) : t.returnsInRange := by
  cases hw : writesStack i with
  | false =>
    obtain ⟨hstack, hsp⟩ := (indexAndStackWriters i s t h).2 hw
    intro k hk
    rw [hstack]
    exact hreturns k (hsp ▸ hk)
  | true =>
    cases i with
    | ret =>
      have hsp : s.sp.val ≠ 0 := by simpa [faultOf] using hnone
      obtain ⟨u, hexec, husp, -, hustack, -⟩ := retPops s (by omega)
      obtain rfl := Host.Outcome.next.inj (h.symm.trans hexec)
      intro k hk
      rw [hustack]
      exact hreturns k (by omega)
    | call nnn =>
      have hsp : s.sp.val ≠ 16 := by simpa [faultOf] using hnone
      obtain ⟨u, hexec, husp, hpushed, hothers, -⟩ := callPushes s nnn (by omega)
      obtain rfl := Host.Outcome.next.inj (h.symm.trans hexec)
      intro k hk
      have hentry : t.stack[k.val]? = some (t.stack.get k) := Vector.getElem?_eq_getElem k.isLt
      by_cases hks : k.val = s.sp.val
      · rw [hks, hpushed, Option.some.injEq] at hentry
        have : (s.pc + 2).toNat = s.pc.toNat + 2 := word_add_toNat hpc (by decide)
        rw [← hentry]
        omega
      · rw [hothers k.val hks, Vector.getElem?_eq_getElem k.isLt, Option.some.injEq] at hentry
        rw [← hentry]
        exact hreturns k (by omega)
    | _ => cases hw

/-! ### The operations that keep the invariant -/

theorem State.Inv.takeFault (h : s.Inv) (kind : FaultKind) (opcode : Option Word) (info : Option Nat) :
    (Machine.takeFault kind opcode info s).Inv where
  mem := h.mem
  pc := h.pc
  returns := h.returns
  record r hr := by
    cases hr
    exact ⟨rfl, rfl⟩

theorem State.Inv.withRandomIn (h : s.Inv) (l : List Byte) : ({ s with randomIn := l } : State).Inv :=
  ⟨h.mem, h.pc, h.returns, h.record⟩

theorem State.Inv.writeBytes (h : s.Inv) (a : Nat) (bs : List Byte) : (s.writeBytes a bs).Inv where
  mem := writeBytes_memWf s a bs h.mem
  pc := by
    rw [State.pcInRange, writeBytes_pc, writeBytes_params]
    exact h.pc
  returns := by
    rw [State.returnsInRange, writeBytes_stack, writeBytes_sp]
    exact h.returns
  record := by
    rw [State.recordMatches, writeBytes_status, writeBytes_pc]
    exact h.record

theorem initial_inv (p : Params) : (State.initial p).Inv where
  mem := rfl
  pc := Nat.le_trans (by decide : 0x200 ≤ 0x1002) (pcBound_ge p.bnnnMode)
  returns k hk := absurd hk (Nat.not_lt_zero k.val)
  record r hr := by cases hr

/-! ### The statements -/

/-- Settles O13: the memory is empty, the stack too, `pc` is 0x200 and nothing has faulted (R38). -/
theorem initialStateHasInv : Obligations.InitialStateHasInv := ⟨initial_inv, initial_inv Params.default⟩

/-- Settles O12: a faulted core stays as it is, a fault writes the status alone, and an executed instruction keeps each
part by its effect. -/
theorem stepKeepsInv : Obligations.StepKeepsInv := by
  intro s t hinv h
  cases hs : s.status with
  | faulted r =>
    obtain rfl := Host.Outcome.next.inj ((step_of_faulted hs).symm.trans h)
    exact hinv
  | running =>
    obtain ⟨k, info, -, rfl⟩ | ⟨i, hi, hnone, hexec, heffect⟩ := step_running_cases hs h
    · exact hinv.takeFault k s.fetchWord? info
    · have ⟨_, hpc, _⟩ := hi
      exact {
        mem := heffect.mem hinv.mem
        pc := by
          rw [State.pcInRange, heffect.only.params]
          exact heffect.pc.inRange hpc hinv.returns
        returns := exec_returnsInRange ((stepFault?_of_executes hi).symm.trans hnone) hexec hpc hinv.returns
        record := fun r hr => by
          rw [heffect.only.status, hs] at hr
          cases hr }

/-- Settles O60: a step keeps the invariant, a load is one block write, reset is construction anew, and no other call
reaches what it speaks of. -/
theorem everyTransactionKeepsInv : Obligations.EveryTransactionKeepsInv := by
  intro c s t q hinv h
  cases c with
  | step b =>
    obtain ⟨u, hu, rfl⟩ := transact_step_cases h
    exact (stepKeepsInv _ u (hinv.withRandomIn _) hu).withRandomIn s.randomIn
  | load bytes =>
    obtain rfl | rfl := transact_load_cases h
    · exact hinv.writeBytes romBase bytes
    · exact hinv
  | reset =>
    cases h
    obtain ⟨hmem, hpc, hreturns, hrecord⟩ := initial_inv s.params
    exact ⟨hmem, hpc, hreturns, hrecord⟩
  | tick | keySet | display =>
    cases h
    exact ⟨hinv.mem, hinv.pc, hinv.returns, hinv.record⟩

/-- What every call keeps holds after any sequence of calls. -/
theorem runCalls_induction {P : State → Prop}
    (hstep : ∀ c s t q, P s → transact c s = .next (t, q) → P t) {calls : List HostCall} (hs : P s)
    (h : runCalls calls s = .next t) : P t := by
  induction calls generalizing s with
  | nil =>
    cases h
    exact hs
  | cons c rest ih =>
    obtain ⟨u, q, hc⟩ := everyTransactionCompletes c s
    exact ih (hstep c s u q hs hc) ((runCalls_cons hc).symm.trans h)

/-- Settles O14: the parameters and the invariant are there at construction, and every call keeps both. -/
theorem reachableStatesHaveInv : Obligations.ReachableStatesHaveInv := by
  intro p s ⟨calls, h⟩
  refine runCalls_induction (P := fun s => s.params = p ∧ s.Inv) (fun c s t q ⟨hp, hinv⟩ hc => ?_)
    ⟨rfl, initial_inv p⟩ h
  exact ⟨(parametersNeverChange c s t q hc).trans hp, everyTransactionKeepsInv c s t q hinv hc⟩

end Sys2Proof.Machine
end

section
/-! CERTIFICATES. The runs that stand still: the wait for a key and the end of a program (44_input R183, 70_reset
R274). -/

namespace Sys2Proof.Machine

variable {s : State}

/-- A state that a step gives back is the answer of any number of steps. -/
theorem run_of_step_self (h : step s = .next s) (n : Nat) : Host.Core.run Sys2Proof.core n s = .next s := by
  have hcore : Sys2Proof.core.step s = .next s := h
  induction n with
  | zero => rfl
  | succ n ih =>
    simp only [Host.Core.run, hcore]
    exact ih

/-- Settles O48: with no key pressed Fx0A gives the state back (R182, R183). -/
theorem waitForKeyReexecutes : Obligations.WaitForKeyReexecutes := fun s x n hi hkeys =>
  run_of_step_self ((stepRunsTheDecodedInstruction s _ hi).trans (exec_ldKey_of_noKey x hkeys)) n

/-- The word of a jump to `pc` is a jump, and its address field is `pc`. -/
theorem executes_of_atEnd (h : s.atEnd) : ∃ nnn, s.executes (.jp nnn) ∧ zextAddr nnn = s.pc := by
  obtain ⟨hr, op, hfetch, hop⟩ := h
  have hpc : s.pc.toNat ≤ lastFetch := by
    by_contra hpc
    rw [fetchWord?_none s hpc] at hfetch
    cases hfetch
  rw [lastFetch] at hpc
  have hclass : classNibble op = (0x1#4).toNat := (classNibble_eq op).trans (by rw [hop]; change _ = 1; omega)
  have hword : encode (.jp (fieldNnn op)) = op := formFA_of_fields hclass rfl
  have hdecode := (congrArg (decode s.params.bnnnMode) hword).symm.trans (decode_encode rfl)
  refine ⟨fieldNnn op, (executes_iff_fetch hr _).mpr ⟨op, hfetch, hdecode⟩, BitVec.eq_of_toNat_eq ?_⟩
  rw [zextAddr_toNat, fieldNnn_toNat, hop]
  omega

/-- Settles O57: the jump writes back the `pc` it was fetched from, and nothing else (R274). -/
theorem selfJumpStays : Obligations.SelfJumpStays := by
  intro s n h
  obtain ⟨nnn, hi, hnnn⟩ := executes_of_atEnd h
  refine run_of_step_self ?_ n
  rw [stepRunsTheDecodedInstruction s _ hi, exec_jp, hnnn]
  rfl

end Sys2Proof.Machine
end

section
/-! CERTIFICATES. Memory as the fetch and the canonical form see it (20_memory R50, 10_state R32). -/

namespace Sys2Proof.Machine

variable {s : State}

/-! ### The fetched word (R50) -/

theorem wordOfBytes_toNat (hi lo : Byte) : (wordOfBytes hi lo).toNat = hi.toNat * 256 + lo.toNat := by
  have := lo.isLt
  rw [wordOfBytes, BitVec.toNat_append, ← Nat.shiftLeft_add_eq_or_of_lt this, Nat.shiftLeft_eq]

theorem fetchWord?_toNat (h : s.pc.toNat ≤ 0xFFE) : ∃ op, s.fetchWord? = some op ∧
    op.toNat = (s.readByte s.pc.toNat).toNat * 256 + (s.readByte (s.pc.toNat + 1)).toNat :=
  ⟨_, fetchWord?_some s h, wordOfBytes_toNat _ _⟩

theorem readByte_writeByte_self {a : Nat} (h : a ≤ 0xFFF) (b : Byte) : (s.writeByte a b).readByte a = b :=
  (readByte_writeByte ..).trans (if_pos ⟨rfl, h⟩)

/-- Settles O58: the byte at `pc` is the word's high byte and the one after it the low byte, the byte just written among
them (R50, R55). -/
theorem fetchIsBigEndian : Obligations.FetchIsBigEndian := by
  refine fun s b => ⟨fun hi lo hpc hhi hlo => hhi ▸ hlo ▸ fetchWord?_toNat hpc, fun A hA hpc => ?_, fun A hA hpc => ?_⟩
  · obtain ⟨op, hfetch, hop⟩ := fetchWord?_toNat (s := s.writeByte A b) (by rw [writeByte_pc]; omega)
    refine ⟨op, hfetch, ?_⟩
    have := ((s.writeByte A b).readByte (s.pc.toNat + 1)).isLt
    rw [hop, writeByte_pc, hpc, readByte_writeByte_self (by omega)]
    omega
  · obtain ⟨op, hfetch, hop⟩ := fetchWord?_toNat (s := s.writeByte A b) (by rw [writeByte_pc]; omega)
    refine ⟨op, hfetch, ?_⟩
    have := b.isLt
    rw [hop, writeByte_pc, hpc, readByte_writeByte_self hA]
    omega

/-! ### The canonical form (R32) -/

variable {font : Vector Byte 80}

theorem Memory.wfFrom_cons {low k : Nat} {b : Byte} {rest : Memory} :
    Memory.wfFrom font low ((k, b) :: rest) = true ↔
      low ≤ k ∧ k ≤ lastAddress ∧ b ≠ unlistedByte font k ∧ Memory.wfFrom font (k + 1) rest = true := by
  simp only [Memory.wfFrom, Bool.and_eq_true, decide_eq_true_eq, and_assoc]

/-- Below its first possible address a memory lists nothing. -/
theorem Memory.read_below {low a : Nat} (ha : a < low) {m : Memory} (hm : Memory.wfFrom font low m = true) (d : Byte) :
    Memory.read d a m = d := by
  induction m generalizing low with
  | nil => rfl
  | cons e rest ih =>
    obtain ⟨k, b⟩ := e
    obtain ⟨hlow, -, -, hrest⟩ := Memory.wfFrom_cons.mp hm
    rw [Memory.read, if_neg (by omega), ih (by omega) hrest]

/-- A memory is canonical from its first address on. -/
theorem Memory.wfFrom_head {low k : Nat} {b : Byte} {rest : Memory}
    (hm : Memory.wfFrom font low ((k, b) :: rest) = true) : Memory.wfFrom font k ((k, b) :: rest) = true := by
  obtain ⟨-, hk, hb, hrest⟩ := Memory.wfFrom_cons.mp hm
  exact Memory.wfFrom_cons.mpr ⟨le_rfl, hk, hb, hrest⟩

/-- A read sees the first entry of a canonical memory, so no memory that reads alike begins above it. -/
theorem Memory.head_le_of_read_eq {low k : Nat} {b : Byte} {rest m : Memory} (hb : b ≠ unlistedByte font k)
    (hm : Memory.wfFrom font low m = true)
    (hread : Memory.read (unlistedByte font k) k ((k, b) :: rest) = Memory.read (unlistedByte font k) k m) :
    low ≤ k := by
  by_contra hlow
  rw [Memory.read, if_pos rfl, Memory.read_below (by omega) hm] at hread
  exact hb hread

/-- Two canonical memories that read alike are equal: they list the same first address with the same byte, and what
follows reads alike too. -/
theorem Memory.eq_of_read_eq {low low' : Nat} {m m' : Memory} (hm : Memory.wfFrom font low m = true)
    (hm' : Memory.wfFrom font low' m' = true)
    (hread : ∀ a, Memory.read (unlistedByte font a) a m = Memory.read (unlistedByte font a) a m') : m = m' := by
  induction m generalizing m' low low' with
  | nil =>
    cases m' with
    | nil => rfl
    | cons e rest =>
      obtain ⟨k, b⟩ := e
      obtain ⟨-, -, hb, -⟩ := Memory.wfFrom_cons.mp hm'
      exact absurd ((if_pos rfl).symm.trans (hread k).symm) hb
  | cons e rest ih =>
    obtain ⟨k, b⟩ := e
    obtain ⟨-, -, hb, hrest⟩ := Memory.wfFrom_cons.mp hm
    cases m' with
    | nil => exact absurd ((if_pos rfl).symm.trans (hread k)) hb
    | cons e' rest' =>
      obtain ⟨k', b'⟩ := e'
      obtain ⟨-, -, hb', hrest'⟩ := Memory.wfFrom_cons.mp hm'
      have hle : k' ≤ k := Memory.head_le_of_read_eq hb (Memory.wfFrom_head hm') (hread k)
      have hge : k ≤ k' := Memory.head_le_of_read_eq hb' (Memory.wfFrom_head hm) (hread k').symm
      obtain rfl : k = k' := by omega
      obtain rfl : b = b' := by simpa [Memory.read] using hread k
      have htail : rest = rest' := ih hrest hrest' fun a => by
        by_cases ha : k = a
        · rw [Memory.read_below (by omega) hrest, Memory.read_below (by omega) hrest']
        · simpa [Memory.read, ha] using hread a
      rw [htail]

/-- Settles O59: with the same parameters both memories are canonical over one font (R32). -/
theorem canonicalMemoryIsUnique : Obligations.CanonicalMemoryIsUnique := by
  intro s t hs ht hparams hread
  rw [State.memCanonical, ← hparams] at ht
  refine Memory.eq_of_read_eq hs ht fun a => ?_
  have := hread a
  rwa [State.readByte, State.readByte, ← hparams] at this

end Sys2Proof.Machine
end
